-- ==== Sys2Proof/Word.lean ====
section
/-!
DEFINITION. The word types of chip8_cpu_interpreter (spec/00_scope.md R5 to R7): all values are unsigned.
-/

namespace Sys2Proof

/-- An 8-bit value: a general register, a timer, a memory byte, the immediate `nn` (R10, R20, R28, R61). -/
abbrev Byte := BitVec 8

/-- A 16-bit value: an opcode, `pc`, `I`, a stack entry, `fault_pc`, `fault_info` (R13, R15, R17, R25, R60). -/
abbrev Word := BitVec 16

/-- The 12-bit address immediate `nnn` (R61, R63). -/
abbrev Addr := BitVec 12

/-- A register number, the fields `x` and `y`; all sixteen values are legal (R10, R63). -/
abbrev Reg := Fin 16

end Sys2Proof
end

