-- ==== Sys2Proof/Config.lean ====
section
/-!
DEFINITION. What is fixed for this machine (spec/00_scope.md R5, R6; spec/10_state.md R27) and the free values
(spec/41_load_alu.md R112; assumption log 1 and 2).
-/

namespace Sys2Proof.Config

/-- Bytes of memory (R5, R40). -/
def memBytes : Nat := 4096

/-- Where `LOAD_PROGRAM` puts the first program byte, and `pc` after `POWER_ON` (R5, R41). -/
def programBase : Nat := 0x200

/-- The largest program: 4096 - 0x200 bytes (R5, R184). -/
def maxProgram : Nat := 3584

/-- Bytes of the font set (R5, R27). -/
def fontBytes : Nat := 80

/-- Framebuffer columns (R5, R22). -/
def columns : Nat := 64

/-- Framebuffer rows (R5, R22). -/
def rows : Nat := 32

/-- Framebuffer cells (R5, R22). -/
def cells : Nat := 2048

/-- The two parameters of the driving loop that R6 asks to keep configurable. They are arguments, no part of State (R31). -/
structure Driver where
  /-- `IPF`: `STEP` operations for each `TICK_TIMERS`. OPEN, so it has no default (D20). -/
  ipf : Nat
  /-- `IPF` is a positive integer. -/
  ipfPos : 0 < ipf
  /-- `FRAME_RATE`: ticks per second the driver aims at. The source states 60, and no rule uses it. -/
  frameRate : Nat := 60
  deriving DecidableEq, Repr

/-- Glyphs 0 to 7 of the font table of R27 (UNVERIFIED, assumption log 6). -/
def fontLow : List Byte :=
  [0xF0, 0x90, 0x90, 0x90, 0xF0,
   0x20, 0x60, 0x20, 0x20, 0x70,
   0xF0, 0x10, 0xF0, 0x80, 0xF0,
   0xF0, 0x10, 0xF0, 0x10, 0xF0,
   0x90, 0x90, 0xF0, 0x10, 0x10,
   0xF0, 0x80, 0xF0, 0x10, 0xF0,
   0xF0, 0x80, 0xF0, 0x90, 0xF0,
   0xF0, 0x10, 0x20, 0x40, 0x40]

/-- Glyphs 8 to F of the font table of R27 (UNVERIFIED, assumption log 6). -/
def fontHigh : List Byte :=
  [0xF0, 0x90, 0xF0, 0x90, 0xF0,
   0xF0, 0x90, 0xF0, 0x10, 0xF0,
   0xF0, 0x90, 0xF0, 0x90, 0x90,
   0xE0, 0x90, 0xE0, 0x90, 0xE0,
   0xF0, 0x80, 0x80, 0x80, 0xF0,
   0xE0, 0x90, 0x90, 0x90, 0xE0,
   0xF0, 0x80, 0xF0, 0x80, 0xF0,
   0xF0, 0x80, 0xF0, 0x80, 0x80]

/-- The parameter `FONT`: the 80 bytes of R27, glyph `g` at offsets `5g` to `5g + 4`. -/
def font : List Byte := fontLow ++ fontHigh

/-- FREE VALUE: the random byte `rnd` of the `k`-th Cxnn (R112, D17: "free at every step, under no law"). It has no
body, so a claim holds for every value of every draw (assumption log 1). -/
opaque freeByte : Nat → Byte

/-- FREE VALUE: what the 16-bit `fault_info` holds after a MemBounds whose address does not fit in 16 bits
(R46 computes the sum without wrap-around, R25 gives the register 16 bits, no rule says which 16; assumption log 2). -/
opaque freeInfo : Nat → Word

end Sys2Proof.Config
end

