-- ==== Sys2Proof/Syntax.lean ====
section
/-!
DEFINITION. The instructions: one constructor per row of spec/opcode_table.json, in the table's order
(spec/30_encoding.md R62, R65, R70).
-/

namespace Sys2Proof

/-- The 34 instructions. `x` and `y` are register numbers, `nn` and `nnn` the immediates as their bits stand, `n` the row
count of Dxyn (R61, R63). -/
inductive Instr where
  /-- 00E0, clear the framebuffer (R130). -/
  | cls
  /-- 00EE, return from subroutine (R85). -/
  | ret
  /-- 1nnn, jump (R86). -/
  | jp (nnn : Addr)
  /-- 2nnn, call subroutine (R87). -/
  | call (nnn : Addr)
  /-- 3xnn, skip if `V[x] = nn` (R88). -/
  | seImm (x : Reg) (nn : Byte)
  /-- 4xnn, skip if `V[x] ≠ nn` (R89). -/
  | sneImm (x : Reg) (nn : Byte)
  /-- 5xy0, skip if `V[x] = V[y]` (R90). -/
  | seReg (x y : Reg)
  /-- 6xnn, load immediate (R101). -/
  | ldImm (x : Reg) (nn : Byte)
  /-- 7xnn, add immediate, no flag (R102). -/
  | addImm (x : Reg) (nn : Byte)
  /-- 8xy0, copy register (R103). -/
  | ldReg (x y : Reg)
  /-- 8xy1, bitwise OR (R104). -/
  | orReg (x y : Reg)
  /-- 8xy2, bitwise AND (R105). -/
  | andReg (x y : Reg)
  /-- 8xy3, bitwise exclusive OR (R106). -/
  | xorReg (x y : Reg)
  /-- 8xy4, add with carry flag (R107). -/
  | addReg (x y : Reg)
  /-- 8xy5, subtract `V[y]` from `V[x]` (R108). -/
  | sub (x y : Reg)
  /-- 8xy6, shift right; `y` is in the word and ignored (R67, R109). -/
  | shr (x y : Reg)
  /-- 8xy7, subtract `V[x]` from `V[y]` (R110). -/
  | subn (x y : Reg)
  /-- 8xyE, shift left; `y` is in the word and ignored (R67, R111). -/
  | shl (x y : Reg)
  /-- 9xy0, skip if `V[x] ≠ V[y]` (R91). -/
  | sneReg (x y : Reg)
  /-- Annn, load I (R120). -/
  | ldI (nnn : Addr)
  /-- Bnnn, jump to `nnn + V[0]` (R92). -/
  | jpV0 (nnn : Addr)
  /-- Cxnn, random byte masked (R112). -/
  | rnd (x : Reg) (nn : Byte)
  /-- Dxyn, draw an `n`-row sprite (R131). -/
  | drw (x y : Reg) (n : Nat)
  /-- Ex9E, skip if key pressed (R141). -/
  | skp (x : Reg)
  /-- ExA1, skip if key not pressed (R142). -/
  | sknp (x : Reg)
  /-- Fx07, read the delay timer (R144). -/
  | ldVxDt (x : Reg)
  /-- Fx0A, wait for a key (R143). -/
  | ldVxK (x : Reg)
  /-- Fx15, set the delay timer (R145). -/
  | ldDtVx (x : Reg)
  /-- Fx18, set the sound timer (R146). -/
  | ldStVx (x : Reg)
  /-- Fx1E, add `V[x]` to I (R121). -/
  | addI (x : Reg)
  /-- Fx29, point I at a glyph (R122). -/
  | ldF (x : Reg)
  /-- Fx33, store three decimal digits (R123). -/
  | ldB (x : Reg)
  /-- Fx55, store `V[0]..V[x]` (R124). -/
  | stRegs (x : Reg)
  /-- Fx65, load `V[0]..V[x]` (R125). -/
  | ldRegs (x : Reg)
  deriving DecidableEq, Repr

end Sys2Proof
end

