-- ==== Sys2Proof/WellFormed.lean ====
section
/-!
DEFINITION. Which terms the hardware can be given: an instruction whose every field fits its bits (spec/30_encoding.md R61,
R67), a program that fits (spec/70_reset_and_hazards.md R184), a font of the right size (spec/10_state.md R27).
-/

namespace Sys2Proof

/-- Every field fits the bits of its format. Register numbers and the immediates fit by their types; the row count of
Dxyn is a number and must fit its four bits (R61: `n` is `op[3:0]`). -/
def Instr.wellFormed : Instr → Bool
  | .cls => true
  | .ret => true
  | .jp _ => true
  | .call _ => true
  | .seImm _ _ => true
  | .sneImm _ _ => true
  | .seReg _ _ => true
  | .ldImm _ _ => true
  | .addImm _ _ => true
  | .ldReg _ _ => true
  | .orReg _ _ => true
  | .andReg _ _ => true
  | .xorReg _ _ => true
  | .addReg _ _ => true
  | .sub _ _ => true
  | .shr _ _ => true
  | .subn _ _ => true
  | .shl _ _ => true
  | .sneReg _ _ => true
  | .ldI _ => true
  | .jpV0 _ => true
  | .rnd _ _ => true
  | .drw _ _ n => decide (n < 16)
  | .skp _ => true
  | .sknp _ => true
  | .ldVxDt _ => true
  | .ldVxK _ => true
  | .ldDtVx _ => true
  | .ldStVx _ => true
  | .addI _ => true
  | .ldF _ => true
  | .ldB _ => true
  | .stRegs _ => true
  | .ldRegs _ => true

/-- `LOAD_PROGRAM` accepts at most 3584 bytes (R184). -/
def programFits (bytes : List Byte) : Bool := decide (bytes.length ≤ Config.maxProgram)

/-- A font set has exactly 80 bytes (R5, R27). -/
def fontFits (bytes : List Byte) : Bool := decide (bytes.length = Config.fontBytes)

end Sys2Proof
end

