-- ==== Sys2Proof/Decode.lean ====
section
/-!
DEFINITION. Decoding, total on words and on bytes (spec/30_encoding.md R61 to R68), the encoder written from the same
formats (R62), and the opcode map as mask and match (R65).
-/

namespace Sys2Proof

/-! ### Fields (R61) -/

/-- `op[15:12]`. -/
def fieldTop (op : Word) : BitVec 4 := op.extractLsb' 12 4

/-- `op[11:8]`. -/
def fieldX (op : Word) : Reg := (op.extractLsb' 8 4).toFin

/-- `op[7:4]`. -/
def fieldY (op : Word) : Reg := (op.extractLsb' 4 4).toFin

/-- `op[3:0]`. -/
def fieldN (op : Word) : BitVec 4 := op.extractLsb' 0 4

/-- `op[7:0]`. -/
def fieldNN (op : Word) : Byte := op.extractLsb' 0 8

/-- `op[11:0]`. -/
def fieldNNN (op : Word) : Addr := op.extractLsb' 0 12

/-- Two bytes as an opcode, the first (lower address) the high half (R42). -/
def joinBytes (hi lo : Byte) : Word := hi ++ lo

/-- The byte at the lower address. -/
def highByte (op : Word) : Byte := op.extractLsb' 8 8

/-- The byte at the higher address. -/
def lowByte (op : Word) : Byte := op.extractLsb' 0 8

/-! ### Decoding a word (R64) -/

/-- The FIXED words of family 0 (R64; every other word 0nnn is invalid, R68). -/
def decodeFixed (op : Word) : Option Instr :=
  if op = 0x00E0#16 then some .cls
  else if op = 0x00EE#16 then some .ret
  else none

/-- Family 8xyN by its secondary nibble (R64). -/
def decodeArith (x y : Reg) (n : BitVec 4) : Option Instr :=
  match n with
  | 0x0#4 => some (.ldReg x y)
  | 0x1#4 => some (.orReg x y)
  | 0x2#4 => some (.andReg x y)
  | 0x3#4 => some (.xorReg x y)
  | 0x4#4 => some (.addReg x y)
  | 0x5#4 => some (.sub x y)
  | 0x6#4 => some (.shr x y)
  | 0x7#4 => some (.subn x y)
  | 0xE#4 => some (.shl x y)
  | _ => none

/-- Family Exnn by its low byte (R64). -/
def decodeKey (x : Reg) (nn : Byte) : Option Instr :=
  match nn with
  | 0x9E#8 => some (.skp x)
  | 0xA1#8 => some (.sknp x)
  | _ => none

/-- Family Fxnn by its low byte (R64). -/
def decodeMisc (x : Reg) (nn : Byte) : Option Instr :=
  match nn with
  | 0x07#8 => some (.ldVxDt x)
  | 0x0A#8 => some (.ldVxK x)
  | 0x15#8 => some (.ldDtVx x)
  | 0x18#8 => some (.ldStVx x)
  | 0x1E#8 => some (.addI x)
  | 0x29#8 => some (.ldF x)
  | 0x33#8 => some (.ldB x)
  | 0x55#8 => some (.stRegs x)
  | 0x65#8 => some (.ldRegs x)
  | _ => none

/-- `Decode(op)` of R64; `none` is the rule's `invalid` (R66). -/
def decodeWord (op : Word) : Option Instr :=
  match fieldTop op with
  | 0x0#4 => decodeFixed op
  | 0x1#4 => some (.jp (fieldNNN op))
  | 0x2#4 => some (.call (fieldNNN op))
  | 0x3#4 => some (.seImm (fieldX op) (fieldNN op))
  | 0x4#4 => some (.sneImm (fieldX op) (fieldNN op))
  | 0x5#4 => if fieldN op = 0#4 then some (.seReg (fieldX op) (fieldY op)) else none
  | 0x6#4 => some (.ldImm (fieldX op) (fieldNN op))
  | 0x7#4 => some (.addImm (fieldX op) (fieldNN op))
  | 0x8#4 => decodeArith (fieldX op) (fieldY op) (fieldN op)
  | 0x9#4 => if fieldN op = 0#4 then some (.sneReg (fieldX op) (fieldY op)) else none
  | 0xA#4 => some (.ldI (fieldNNN op))
  | 0xB#4 => some (.jpV0 (fieldNNN op))
  | 0xC#4 => some (.rnd (fieldX op) (fieldNN op))
  | 0xD#4 => some (.drw (fieldX op) (fieldY op) (fieldN op).toNat)
  | 0xE#4 => decodeKey (fieldX op) (fieldNN op)
  | 0xF#4 => decodeMisc (fieldX op) (fieldNN op)
  | _ => none

/-! ### Decoding bytes -/

/-- Why bytes do not decode. -/
inductive DecodeReject where
  /-- Fewer than the two bytes every instruction has (R60). -/
  | truncated
  /-- A word that R65 does not list (R66). -/
  | unknownOpcode (op : Word)
  deriving DecidableEq, Repr

/-- The first instruction of a byte sequence and the bytes after it, or why there is none (R42, R60, R64). -/
def decode : List Byte → Except DecodeReject (Instr × List Byte)
  | hi :: lo :: rest =>
    match decodeWord (joinBytes hi lo) with
    | some i => .ok (i, rest)
    | none => .error (.unknownOpcode (joinBytes hi lo))
  | [_] => .error .truncated
  | [] => .error .truncated

/-! ### Encoding (R62) -/

/-- The four bits of a register number. -/
def regBits (r : Reg) : BitVec 4 := BitVec.ofFin r

/-- Format NNN: `top ++ nnn`. -/
def nnnForm (top : BitVec 4) (nnn : Addr) : Word := top ++ nnn

/-- Formats XNN and X: `top ++ x ++ nn`, where format X has its secondary opcode in `nn`. -/
def xnnForm (top : BitVec 4) (x : Reg) (nn : Byte) : Word := (top ++ regBits x) ++ nn

/-- Formats XY and XYN: `top ++ x ++ y ++ n`, where format XY has its secondary opcode in `n`. -/
def xynForm (top : BitVec 4) (x y : Reg) (n : BitVec 4) : Word := ((top ++ regBits x) ++ regBits y) ++ n

/-- The word of a well-formed instruction (R62, R65). -/
def encode : Instr → Word
  | .cls => 0x00E0#16
  | .ret => 0x00EE#16
  | .jp nnn => nnnForm 0x1#4 nnn
  | .call nnn => nnnForm 0x2#4 nnn
  | .seImm x nn => xnnForm 0x3#4 x nn
  | .sneImm x nn => xnnForm 0x4#4 x nn
  | .seReg x y => xynForm 0x5#4 x y 0x0#4
  | .ldImm x nn => xnnForm 0x6#4 x nn
  | .addImm x nn => xnnForm 0x7#4 x nn
  | .ldReg x y => xynForm 0x8#4 x y 0x0#4
  | .orReg x y => xynForm 0x8#4 x y 0x1#4
  | .andReg x y => xynForm 0x8#4 x y 0x2#4
  | .xorReg x y => xynForm 0x8#4 x y 0x3#4
  | .addReg x y => xynForm 0x8#4 x y 0x4#4
  | .sub x y => xynForm 0x8#4 x y 0x5#4
  | .shr x y => xynForm 0x8#4 x y 0x6#4
  | .subn x y => xynForm 0x8#4 x y 0x7#4
  | .shl x y => xynForm 0x8#4 x y 0xE#4
  | .sneReg x y => xynForm 0x9#4 x y 0x0#4
  | .ldI nnn => nnnForm 0xA#4 nnn
  | .jpV0 nnn => nnnForm 0xB#4 nnn
  | .rnd x nn => xnnForm 0xC#4 x nn
  | .drw x y n => xynForm 0xD#4 x y (BitVec.ofNat 4 n)
  | .skp x => xnnForm 0xE#4 x 0x9E#8
  | .sknp x => xnnForm 0xE#4 x 0xA1#8
  | .ldVxDt x => xnnForm 0xF#4 x 0x07#8
  | .ldVxK x => xnnForm 0xF#4 x 0x0A#8
  | .ldDtVx x => xnnForm 0xF#4 x 0x15#8
  | .ldStVx x => xnnForm 0xF#4 x 0x18#8
  | .addI x => xnnForm 0xF#4 x 0x1E#8
  | .ldF x => xnnForm 0xF#4 x 0x29#8
  | .ldB x => xnnForm 0xF#4 x 0x33#8
  | .stRegs x => xnnForm 0xF#4 x 0x55#8
  | .ldRegs x => xnnForm 0xF#4 x 0x65#8

/-- The two bytes of an instruction in memory order, high byte first (R42). -/
def encodeBytes (i : Instr) : List Byte := [highByte (encode i), lowByte (encode i)]

/-! ### The opcode map as mask and match (R65) -/

/-- One row of R65: a word `op` is the instruction when `op & mask = pattern`. -/
structure OpcodeRow where
  pattern : Word
  mask : Word
  deriving DecidableEq, Repr

/-- A word selects a row (R65). -/
def OpcodeRow.selects (r : OpcodeRow) (op : Word) : Bool := op &&& r.mask == r.pattern

/-- The row of R65 that stands for an instruction. -/
def Instr.row : Instr → OpcodeRow
  | .cls => ⟨0x00E0, 0xFFFF⟩
  | .ret => ⟨0x00EE, 0xFFFF⟩
  | .jp _ => ⟨0x1000, 0xF000⟩
  | .call _ => ⟨0x2000, 0xF000⟩
  | .seImm _ _ => ⟨0x3000, 0xF000⟩
  | .sneImm _ _ => ⟨0x4000, 0xF000⟩
  | .seReg _ _ => ⟨0x5000, 0xF00F⟩
  | .ldImm _ _ => ⟨0x6000, 0xF000⟩
  | .addImm _ _ => ⟨0x7000, 0xF000⟩
  | .ldReg _ _ => ⟨0x8000, 0xF00F⟩
  | .orReg _ _ => ⟨0x8001, 0xF00F⟩
  | .andReg _ _ => ⟨0x8002, 0xF00F⟩
  | .xorReg _ _ => ⟨0x8003, 0xF00F⟩
  | .addReg _ _ => ⟨0x8004, 0xF00F⟩
  | .sub _ _ => ⟨0x8005, 0xF00F⟩
  | .shr _ _ => ⟨0x8006, 0xF00F⟩
  | .subn _ _ => ⟨0x8007, 0xF00F⟩
  | .shl _ _ => ⟨0x800E, 0xF00F⟩
  | .sneReg _ _ => ⟨0x9000, 0xF00F⟩
  | .ldI _ => ⟨0xA000, 0xF000⟩
  | .jpV0 _ => ⟨0xB000, 0xF000⟩
  | .rnd _ _ => ⟨0xC000, 0xF000⟩
  | .drw _ _ _ => ⟨0xD000, 0xF000⟩
  | .skp _ => ⟨0xE09E, 0xF0FF⟩
  | .sknp _ => ⟨0xE0A1, 0xF0FF⟩
  | .ldVxDt _ => ⟨0xF007, 0xF0FF⟩
  | .ldVxK _ => ⟨0xF00A, 0xF0FF⟩
  | .ldDtVx _ => ⟨0xF015, 0xF0FF⟩
  | .ldStVx _ => ⟨0xF018, 0xF0FF⟩
  | .addI _ => ⟨0xF01E, 0xF0FF⟩
  | .ldF _ => ⟨0xF029, 0xF0FF⟩
  | .ldB _ => ⟨0xF033, 0xF0FF⟩
  | .stRegs _ => ⟨0xF055, 0xF0FF⟩
  | .ldRegs _ => ⟨0xF065, 0xF0FF⟩

/-- The first seventeen rows of R65, in its order. -/
def opcodeTableLow : List OpcodeRow :=
  [⟨0x00E0, 0xFFFF⟩, ⟨0x00EE, 0xFFFF⟩, ⟨0x1000, 0xF000⟩, ⟨0x2000, 0xF000⟩, ⟨0x3000, 0xF000⟩, ⟨0x4000, 0xF000⟩,
   ⟨0x5000, 0xF00F⟩, ⟨0x6000, 0xF000⟩, ⟨0x7000, 0xF000⟩, ⟨0x8000, 0xF00F⟩, ⟨0x8001, 0xF00F⟩, ⟨0x8002, 0xF00F⟩,
   ⟨0x8003, 0xF00F⟩, ⟨0x8004, 0xF00F⟩, ⟨0x8005, 0xF00F⟩, ⟨0x8006, 0xF00F⟩, ⟨0x8007, 0xF00F⟩]

/-- The other seventeen rows of R65. -/
def opcodeTableHigh : List OpcodeRow :=
  [⟨0x800E, 0xF00F⟩, ⟨0x9000, 0xF00F⟩, ⟨0xA000, 0xF000⟩, ⟨0xB000, 0xF000⟩, ⟨0xC000, 0xF000⟩, ⟨0xD000, 0xF000⟩,
   ⟨0xE09E, 0xF0FF⟩, ⟨0xE0A1, 0xF0FF⟩, ⟨0xF007, 0xF0FF⟩, ⟨0xF00A, 0xF0FF⟩, ⟨0xF015, 0xF0FF⟩, ⟨0xF018, 0xF0FF⟩,
   ⟨0xF01E, 0xF0FF⟩, ⟨0xF029, 0xF0FF⟩, ⟨0xF033, 0xF0FF⟩, ⟨0xF055, 0xF0FF⟩, ⟨0xF065, 0xF0FF⟩]

/-- The 34 rows of R65. -/
def opcodeTable : List OpcodeRow := opcodeTableLow ++ opcodeTableHigh

/-! ### The host's view -/

/-- The bytes of an instruction given as a number `w` whose bits above `nbits` are zero: the word's high byte first. -/
def tableWordBytes (nbits w : Nat) : List Byte :=
  [highByte (BitVec.ofNat 16 (w % 2 ^ nbits)), lowByte (BitVec.ofNat 16 (w % 2 ^ nbits))]

/-- What the decoder reads from an instruction given as the opcode table numbers its bits. -/
def decodeTableWord (nbits w : Nat) : Option Instr :=
  match decode (tableWordBytes nbits w) with
  | .ok (i, _) => some i
  | .error _ => none

end Sys2Proof
end

