-- ==== Sys2Proof/Machine/State.lean ====
section
/-!
DEFINITION. The whole state of the block as plain data (spec/10_state.md), its reset value (R29, R180), and the reasons a
step could stop.
-/

namespace Sys2Proof.Machine

/-- Memory as (address, byte) pairs in one canonical form: addresses strictly rising and below 4096, no entry equal to
what an unlisted address reads as (R28, R40). -/
abbrev Memory := List Host.Cell

/-- What an address with no entry reads as: `POWER_ON` leaves every byte 0 (R29, R180). -/
def Memory.unlisted : Byte := 0

/-- The canonical form from address `lo` upward. -/
def Memory.wfFrom (lo : Nat) : Memory → Bool
  | [] => true
  | (a, b) :: rest =>
    decide (lo ≤ a) && decide (a < Config.memBytes) && !(b == Memory.unlisted) && Memory.wfFrom (a + 1) rest

/-- The canonical form. -/
def Memory.wf (m : Memory) : Bool := Memory.wfFrom 0 m

/-- The framebuffer as its 32 rows of 64 one-bit cells: cell `k` of R22 (column `k mod 64`, row `k div 64`) is bit
`k mod 64` of row `k div 64` (assumption log 4). -/
abbrev Framebuffer := Vector (BitVec 64) 32

/-- The codes of R150: 0 for no fault, 1 to 6 for the six faults. -/
inductive FaultCode where
  /-- 0, no fault. -/
  | none
  /-- 1, the fetched word is not one of the 34 patterns (R151). -/
  | decodeError
  /-- 2, 2nnn with `SP` = 16 (R152). -/
  | stackOverflow
  /-- 3, 00EE with `SP` = 0 (R153). -/
  | stackUnderflow
  /-- 4, `pc` > 4094 at fetch (R154). -/
  | fetchBounds
  /-- 5, the last byte an instruction would access lies beyond 4095 (R155). -/
  | memBounds
  /-- 6, `V[x]` > 15 in Ex9E or ExA1 (R156). -/
  | keyIndex
  deriving DecidableEq, Repr

/-- The number of a code (R150). -/
def FaultCode.toNat : FaultCode → Nat
  | .none => 0
  | .decodeError => 1
  | .stackOverflow => 2
  | .stackUnderflow => 3
  | .fetchBounds => 4
  | .memBounds => 5
  | .keyIndex => 6

/-- Why a step stops the model without a next state: never. The six faults of R150 are TAKEN, each a next state with
the fault latch written (R158, assumption log 10), so no reason is left. Nobody raises one; safe. -/
inductive Fault where
  deriving DecidableEq, Repr

/-- Why the model gives an instruction no meaning. -/
inductive Refusal where
  /-- Raised by an arm of `exec` whose instruction has no meaning yet, with its mnemonic. No arm raises it: all 34
  instructions have their meaning. Safe. -/
  | notModelled (mnemonic : String)
  deriving DecidableEq, Repr

/-- The one state aggregate of spec/10_state.md, every element of R29's table under its own name, and one field of the
model's own (`draws`). -/
structure State where
  /-- `V[0]`..`V[15]`, VF is `V[15]` (R10, R11). -/
  v : Vector Byte 16
  /-- The index register `I` (R13). -/
  i : Word
  /-- The program counter (R15). -/
  pc : Word
  /-- `stack[0]`..`stack[15]` (R17). -/
  stack : Vector Word 16
  /-- `SP`, 0 to 16, the number of valid entries (R18). -/
  sp : Fin 17
  /-- The delay timer `DT` (R20). -/
  dt : Byte
  /-- The sound timer `ST` (R21). -/
  st : Byte
  /-- The framebuffer (R22). -/
  fb : Framebuffer
  /-- The keypad, true means pressed (R23). -/
  keys : Vector Bool 16
  /-- The draw flag (R24). -/
  drawFlag : Bool
  /-- The 4096 bytes of memory (R28, R40). -/
  mem : Memory
  /-- The fault latch: a fault has been taken (R25). -/
  halted : Bool
  /-- The fault latch: which (R25, R150). -/
  faultCode : FaultCode
  /-- The fault latch: the `pc` of the faulting instruction (R25). -/
  faultPc : Word
  /-- The fault latch: opcode, address or key index (R25, R150). -/
  faultInfo : Word
  /-- THE MODEL'S OWN: how many free values have been consumed (assumption log 1 and 2). -/
  draws : Nat
  deriving DecidableEq, Repr

/-- What every meaning answers with. -/
abbrev Result := Host.Outcome State Fault Refusal

/-- The state after `POWER_ON` (R29, R180). -/
def State.reset : State where
  v := Vector.replicate 16 0
  i := 0
  pc := 0x200
  stack := Vector.replicate 16 0
  sp := 0
  dt := 0
  st := 0
  fb := Vector.replicate 32 0
  keys := Vector.replicate 16 false
  drawFlag := false
  mem := []
  halted := false
  faultCode := .none
  faultPc := 0
  faultInfo := 0
  draws := 0

end Sys2Proof.Machine
end

