-- ==== Sys2Proof/Machine/Ops.lean ====
section
/-!
DEFINITION. The named operations every meaning is written over: memory, program counter, return stack, framebuffer,
taking a fault and the power-on that alone ends it, the bounds check, the fetch.
-/

namespace Sys2Proof.Machine

/-! ### Memory (spec/20_memory.md) -/

/-- `MemRead(a, 1)` (R8): the byte at `a`. -/
def Memory.read : Memory → Nat → Byte
  | [], _ => Memory.unlisted
  | (k, b) :: rest, a => if k = a then b else Memory.read rest a

/-- `MemWrite(a, 1, b)` (R8), keeping the canonical form. -/
def Memory.write : Memory → Nat → Byte → Memory
  | [], a, b => if b = Memory.unlisted then [] else [(a, b)]
  | (k, c) :: rest, a, b =>
    if a < k then (if b = Memory.unlisted then (k, c) :: rest else (a, b) :: (k, c) :: rest)
    else if a = k then (if b = Memory.unlisted then rest else (a, b) :: rest)
    else (k, c) :: Memory.write rest a b

/-- Single-byte stores at ascending addresses from `a` (R43). -/
def Memory.store : Memory → Nat → List Byte → Memory
  | m, _, [] => m
  | m, a, b :: bs => Memory.store (m.write a b) (a + 1) bs

/-- Single-byte loads at ascending addresses from `a` (R43). -/
def Memory.load (m : Memory) : Nat → Nat → List Byte
  | _, 0 => []
  | a, n + 1 => m.read a :: Memory.load m (a + 1) n

/-- The largest address (R40). -/
def lastAddress : Nat := 4095

/-! ### Program counter (spec/10_state.md R15, R16) -/

/-- The plain advance `pc <- A + 2` (R84). -/
def advance (s : State) : State := { s with pc := s.pc + 2 }

/-- A skip: `A + 4` when the condition holds, else `A + 2` (R16, R88 to R91, R94). -/
def skipIf (cond : Bool) (s : State) : State := { s with pc := s.pc + (if cond then 4 else 2) }

/-- `pc <- target`, no advance (R86). -/
def jumpTo (target : Word) (s : State) : State := { s with pc := target }

/-! ### Return stack (spec/10_state.md R17 to R19) -/

/-- `Push(a)`: nothing when all 16 entries are in use. -/
def pushReturn (a : Word) (s : State) : Option State :=
  if h : s.sp.val < 16 then
    some { s with stack := s.stack.set s.sp.val a, sp := ⟨s.sp.val + 1, by omega⟩ }
  else none

/-- `Pop()`: the most recent entry, which keeps its value; nothing when the stack is empty. -/
def popReturn (s : State) : Option (Word × State) :=
  if h : s.sp.val = 0 then none
  else some (s.stack[s.sp.val - 1]'(by omega), { s with sp := ⟨s.sp.val - 1, by omega⟩ })

/-! ### Framebuffer (spec/10_state.md R22) -/

/-- `fb[k]`: is the cell 1? -/
def cellAt (fb : Framebuffer) (k : Fin 2048) : Bool :=
  (fb[k.val / 64]'(by omega)).getLsbD (k.val % 64)

/-- `fb[k] <- fb[k] ^ 1`. -/
def flipCell (fb : Framebuffer) (k : Fin 2048) : Framebuffer :=
  fb.set (k.val / 64) ((fb[k.val / 64]'(by omega)) ^^^ BitVec.twoPow 64 (k.val % 64)) (by omega)

/-- All 2048 cells 0. -/
def clearedFramebuffer : Framebuffer := Vector.replicate 32 0

/-! ### Faults (spec/60_exceptions.md) -/

/-- Does an info value fit the 16-bit `fault_info` (R25, R158)? -/
def infoFits (info : Nat) : Bool := decide (info < 65536)

/-- `raise F(info)` (R158): the latch is written, nothing else changes. An `info` that does not fit in 16 bits (only
MemBounds with `I + count - 1` > 0xFFFF) leaves a free value there (assumption log 2). -/
def raise (code : FaultCode) (info : Nat) (s : State) : State :=
  { s with
    halted := true
    faultCode := code
    faultPc := s.pc
    faultInfo := if infoFits info then BitVec.ofNat 16 info else Config.freeInfo s.draws
    draws := if infoFits info then s.draws else s.draws + 1 }

/-- `POWER_ON` (R180), the only way out of a fault (R159): every element at its value of R29. The model's count of
consumed free values goes on, so that no free value is drawn twice (assumption log 1). -/
def powerOn (s : State) : State := { State.reset with draws := s.draws }

/-! ### The bounds check of a data access (spec/20_memory.md R46) -/

/-- The address of the last of `count` bytes from `I`, without wrap-around (R46, R47). -/
def spanEnd (count : Nat) (s : State) : Nat := s.i.toNat + count - 1

/-- Do `count` bytes from `I` reach beyond the memory? No bytes, no check (R46). -/
def spanOutside (count : Nat) (s : State) : Bool := decide (1 ≤ count ∧ lastAddress < spanEnd count s)

/-- An instruction that accesses `count` bytes from `I`: MemBounds before any change, or its effect and the plain
advance (R46, R84). -/
def withSpan (count : Nat) (effect : State → State) (s : State) : State :=
  if spanOutside count s then raise .memBounds (spanEnd count s) s else advance (effect s)

/-! ### Free values (assumption log 1) -/

/-- One free value has been consumed. -/
def consumeDraw (s : State) : State := { s with draws := s.draws + 1 }

/-! ### Keypad scan (spec/44_keypad_timers.md R143) -/

/-- The least pressed key (`KEY_PICK` = lowest; assumption log 5). -/
def firstPressed (keys : Vector Bool 16) : Option (Fin 16) :=
  (List.finRange 16).find? (fun k => keys[k])

/-! ### Fetch (spec/40_step_and_flow.md R80 to R83) -/

/-- The opcode at `pc`: `MemRead(pc, 2)`, big-endian (R42, R82). -/
def fetchWord (s : State) : Word := joinBytes (s.mem.read s.pc.toNat) (s.mem.read (s.pc.toNat + 1))

/-- Must the fetch fault: does either byte lie outside the memory (R82)? -/
def fetchOutside (s : State) : Bool := decide (lastAddress < s.pc.toNat + 1)

/-- What a step finds before it executes anything. -/
inductive Fetched where
  /-- `halted` is true: no state change (R81). -/
  | idle
  /-- The fetch or the decode faults; the state with the latch written (R82, R83). -/
  | trap (t : State)
  /-- An instruction to execute (R84). -/
  | run (i : Instr)
  deriving DecidableEq, Repr

/-- The checks of `STEP` in the order of R80 and R160: halted, fetch bounds, decode. -/
def fetchInstr (s : State) : Fetched :=
  if s.halted then .idle
  else if fetchOutside s then .trap (raise .fetchBounds s.pc.toNat s)
  else
    match decodeWord (fetchWord s) with
    | none => .trap (raise .decodeError (fetchWord s).toNat s)
    | some i => .run i

end Sys2Proof.Machine
end

