-- ==== Sys2Proof/Machine/Operands.lean ====
section
/-!
DEFINITION. The operand forms: registers by field, immediates zero-extended (spec/30_encoding.md R63), the flag register,
bytes at `I` (spec/42_index_memory.md).
-/

namespace Sys2Proof.Machine

/-- The number of VF (R11). -/
def flagReg : Reg := 15

/-- `V[x]` (R8). -/
def readV (s : State) (x : Reg) : Byte := s.v[x]

/-- `V[x] <- b` (R8); no register is hard-wired (R10). -/
def writeV (s : State) (x : Reg) (b : Byte) : State := { s with v := s.v.set x b }

/-- `zext_16` of a byte (R7). -/
def zextByte (b : Byte) : Word := b.setWidth 16

/-- `zext_16` of `nnn` (R7, R63). -/
def zextAddr (a : Addr) : Word := a.setWidth 16

/-- The three decimal digits of a byte, hundreds first (R123). -/
def decimalDigits (b : Byte) : List Byte :=
  [BitVec.ofNat 8 (b.toNat / 100), BitVec.ofNat 8 (b.toNat / 10 % 10), BitVec.ofNat 8 (b.toNat % 10)]

/-- `V[0]` to `V[x]` in ascending order (R124). -/
def registersUpTo (x : Reg) (s : State) : List Byte := s.v.toList.take (x.val + 1)

/-- `V[j] <- MemRead(a + j, 1)` for `j` from 0 to `x`, the others kept (R125). -/
def loadedRegisters (x : Reg) (m : Memory) (a : Nat) (v : Vector Byte 16) : Vector Byte 16 :=
  Vector.ofFn fun j => if j ≤ x then m.read (a + j.val) else v[j]

/-- The key a register names, if its whole value is a key number (R140). -/
def keyIndex? (b : Byte) : Option (Fin 16) :=
  if h : b.toNat < 16 then some ⟨b.toNat, h⟩ else none

end Sys2Proof.Machine
end

