-- ==== Sys2Proof/Machine/Flags.lean ====
section
/-!
DEFINITION. The values VF takes as a side effect (spec/10_state.md R11, spec/41_load_alu.md R113): carry, not-borrow,
shifted-out bit, index overflow, collision.
-/

namespace Sys2Proof.Machine

/-- A flag as the byte VF holds: 1 or 0. -/
def flagByte (b : Bool) : Byte := if b then 1 else 0

/-- `VF <- 1 if b else 0`. -/
def writeFlag (s : State) (b : Bool) : State := writeV s flagReg (flagByte b)

/-- Carry out of bit 7 of `a + b` (R107). -/
def carryOut (a b : Byte) : Bool := decide (255 < a.toNat + b.toNat)

/-- No borrow in `a - b` (R108, R110). -/
def noBorrow (a b : Byte) : Bool := !decide (a.toNat < b.toNat)

/-- The bit a right shift moves out (R109). -/
def lowBit (a : Byte) : Bool := a.getLsbD 0

/-- The bit a left shift moves out (R111). -/
def topBit (a : Byte) : Bool := a.getLsbD 7

/-- The unreduced sum `I + V[x]` exceeds 0xFFF (R121). -/
def indexOverflow (i : Word) (b : Byte) : Bool := decide (0xFFF < i.toNat + b.toNat)

end Sys2Proof.Machine
end

