-- ==== Sys2Proof/Machine/Display.lean ====
section
/-!
DEFINITION. The display family (spec/43_display.md): 00E0, Dxyn.
-/

namespace Sys2Proof.Machine

/-- The framebuffer index of sprite column `c`, row `r` at origin `(px, py)`: one reduction, modulo 2048 (R131, R133). -/
def cellIndex (px py : Byte) (r c : Nat) : Fin 2048 :=
  ⟨(px.toNat + c + (py.toNat + r) * 64) % 2048, Nat.mod_lt _ (by decide)⟩

/-- The cells the set bits of one sprite row land on, columns ascending; column `c` is bit `7 - c` (R131; assumption log 7). -/
def rowCells (px py : Byte) (r : Nat) (b : Byte) : List (Fin 2048) :=
  (List.range 8).filterMap fun c => if b.getLsbD (7 - c) then some (cellIndex px py r c) else none

/-- The cells a sprite's set bits land on, rows ascending from row `r` (R131). -/
def spriteCells (px py : Byte) : Nat → List Byte → List (Fin 2048)
  | _, [] => []
  | r, b :: bs => rowCells px py r b ++ spriteCells px py (r + 1) bs

/-- The framebuffer being drawn on and whether a set cell has been hit. -/
structure Canvas where
  fb : Framebuffer
  hit : Bool
  deriving DecidableEq, Repr

/-- One set sprite bit: the collision is tested before the XOR and never reset (R131). -/
def plot (d : Canvas) (k : Fin 2048) : Canvas := { fb := flipCell d.fb k, hit := d.hit || cellAt d.fb k }

/-- The XOR draw of a list of cells, in order. -/
def plotAll (fb : Framebuffer) (cells : List (Fin 2048)) : Canvas := cells.foldl plot { fb := fb, hit := false }

/-- The framebuffer, VF and the draw flag after a sprite at `(px, py)` (R131). -/
def drawSprite (px py : Byte) (rows : List Byte) (s : State) : State :=
  let d := plotAll s.fb (spriteCells px py 0 rows)
  writeFlag { s with fb := d.fb, drawFlag := true } d.hit

/-- 00E0 (R130). -/
def execCls (s : State) : Result := .next (advance { s with fb := clearedFramebuffer, drawFlag := true })

/-- Dxyn (R131): the coordinates are the registers as they stand before VF is written (assumption log 8). -/
def execDrw (x y : Reg) (n : Nat) (s : State) : Result :=
  .next (withSpan n (drawSprite (readV s x) (readV s y) (s.mem.load s.i.toNat n)) s)

end Sys2Proof.Machine
end

