-- ==== Sys2Proof/Machine/Flow.lean ====
section
/-!
DEFINITION. The control-flow family (spec/40_step_and_flow.md): 00EE, 1nnn, 2nnn, 3xnn, 4xnn, 5xy0, 9xy0, Bnnn.
-/

namespace Sys2Proof.Machine

/-- 00EE (R85): the popped entry is the address of the call, so `pc` is that plus 2; StackUnderflow when `SP` = 0. -/
def execRet (s : State) : Result :=
  match popReturn s with
  | none => .next (raise .stackUnderflow 0 s)
  | some (a, t) => .next (jumpTo (a + 2) t)

/-- 1nnn (R86). -/
def execJp (nnn : Addr) (s : State) : Result := .next (jumpTo (zextAddr nnn) s)

/-- 2nnn (R87): pushes the address of the call itself; StackOverflow when `SP` = 16. -/
def execCall (nnn : Addr) (s : State) : Result :=
  match pushReturn s.pc s with
  | none => .next (raise .stackOverflow nnn.toNat s)
  | some t => .next (jumpTo (zextAddr nnn) t)

/-- 3xnn (R88). -/
def execSeImm (x : Reg) (nn : Byte) (s : State) : Result := .next (skipIf (readV s x == nn) s)

/-- 4xnn (R89). -/
def execSneImm (x : Reg) (nn : Byte) (s : State) : Result := .next (skipIf (readV s x != nn) s)

/-- 5xy0 (R90). -/
def execSeReg (x y : Reg) (s : State) : Result := .next (skipIf (readV s x == readV s y) s)

/-- 9xy0 (R91). -/
def execSneReg (x y : Reg) (s : State) : Result := .next (skipIf (readV s x != readV s y) s)

/-- Bnnn (R92): the sum is kept unmasked in the 16-bit `pc`. -/
def execJpV0 (nnn : Addr) (s : State) : Result := .next (jumpTo (zextAddr nnn + zextByte (readV s 0)) s)

end Sys2Proof.Machine
end

