-- ==== Sys2Proof/Machine/IndexMemory.lean ====
section
/-!
DEFINITION. The index register and memory transfer family (spec/42_index_memory.md): Annn, Fx1E, Fx29, Fx33, Fx55, Fx65.
-/

namespace Sys2Proof.Machine

/-- `I <- w`. -/
def writeIndex (w : Word) (s : State) : State := { s with i := w }

/-- `mem[I..] <- bytes` (R43). -/
def storeAtIndex (bytes : List Byte) (s : State) : State := { s with mem := s.mem.store s.i.toNat bytes }

/-- Annn (R120). -/
def execLdI (nnn : Addr) (s : State) : Result := .next (advance (writeIndex (zextAddr nnn) s))

/-- Fx1E (R121): the sum modulo 65536 into I, then VF from the unreduced sum. -/
def execAddI (x : Reg) (s : State) : Result :=
  .next (advance (writeFlag (writeIndex (s.i + zextByte (readV s x)) s) (indexOverflow s.i (readV s x))))

/-- Fx29 (R122): the whole byte times 5. -/
def execLdF (x : Reg) (s : State) : Result := .next (advance (writeIndex (zextByte (readV s x) * 5) s))

/-- Fx33 (R123). -/
def execLdB (x : Reg) (s : State) : Result :=
  .next (withSpan 3 (storeAtIndex (decimalDigits (readV s x))) s)

/-- Fx55 (R124); I is unchanged. -/
def execStRegs (x : Reg) (s : State) : Result :=
  .next (withSpan (x.val + 1) (storeAtIndex (registersUpTo x s)) s)

/-- `V[0..x] <- mem[I..I+x]`. -/
def loadAtIndex (x : Reg) (s : State) : State := { s with v := loadedRegisters x s.mem s.i.toNat s.v }

/-- Fx65 (R125); I is unchanged. -/
def execLdRegs (x : Reg) (s : State) : Result := .next (withSpan (x.val + 1) (loadAtIndex x) s)

end Sys2Proof.Machine
end

