-- ==== Sys2Proof/Machine/KeypadTimers.lean ====
section
/-!
DEFINITION. The keypad and timer family (spec/44_keypad_timers.md): Ex9E, ExA1, Fx0A, Fx07, Fx15, Fx18.
-/

namespace Sys2Proof.Machine

/-- A skip on the level of the key `V[x]` names; KeyIndex when it names none (R140). -/
def skipOnKey (x : Reg) (pressed : Bool) (s : State) : State :=
  match keyIndex? (readV s x) with
  | none => raise .keyIndex (readV s x).toNat s
  | some k => skipIf (s.keys[k] == pressed) s

/-- Ex9E (R141). -/
def execSkp (x : Reg) (s : State) : Result := .next (skipOnKey x true s)

/-- ExA1 (R142). -/
def execSknp (x : Reg) (s : State) : Result := .next (skipOnKey x false s)

/-- Fx07 (R144). -/
def execLdVxDt (x : Reg) (s : State) : Result := .next (advance (writeV s x s.dt))

/-- Fx0A (R143): a poll; with no key pressed the step changes nothing. -/
def execLdVxK (x : Reg) (s : State) : Result :=
  match firstPressed s.keys with
  | none => .next s
  | some k => .next (advance (writeV s x (BitVec.ofNat 8 k.val)))

/-- Fx15 (R145). -/
def execLdDtVx (x : Reg) (s : State) : Result := .next (advance { s with dt := readV s x })

/-- Fx18 (R146). -/
def execLdStVx (x : Reg) (s : State) : Result := .next (advance { s with st := readV s x })

end Sys2Proof.Machine
end

