-- ==== Sys2Proof/Machine/LoadAlu.lean ====
section
/-!
DEFINITION. The load and arithmetic family (spec/41_load_alu.md): 6xnn, 7xnn, 8xy0 to 8xy7, 8xyE, Cxnn. The writes of a row
happen in the order of its rule, each on the state the one before left (R100; assumption log 8).
-/

namespace Sys2Proof.Machine

/-- 6xnn (R101). -/
def execLdImm (x : Reg) (nn : Byte) (s : State) : Result := .next (advance (writeV s x nn))

/-- 7xnn (R102): no flag. -/
def execAddImm (x : Reg) (nn : Byte) (s : State) : Result := .next (advance (writeV s x (readV s x + nn)))

/-- 8xy0 (R103). -/
def execLdReg (x y : Reg) (s : State) : Result := .next (advance (writeV s x (readV s y)))

/-- 8xy1 (R104). -/
def execOrReg (x y : Reg) (s : State) : Result := .next (advance (writeV s x (readV s x ||| readV s y)))

/-- 8xy2 (R105). -/
def execAndReg (x y : Reg) (s : State) : Result := .next (advance (writeV s x (readV s x &&& readV s y)))

/-- 8xy3 (R106). -/
def execXorReg (x y : Reg) (s : State) : Result := .next (advance (writeV s x (readV s x ^^^ readV s y)))

/-- 8xy4 (R107): the sum first, VF last. -/
def execAddReg (x y : Reg) (s : State) : Result :=
  .next (advance (writeFlag (writeV s x (readV s x + readV s y)) (carryOut (readV s x) (readV s y))))

/-- 8xy5 (R108): the difference first, VF last. -/
def execSub (x y : Reg) (s : State) : Result :=
  .next (advance (writeFlag (writeV s x (readV s x - readV s y)) (noBorrow (readV s x) (readV s y))))

/-- `V[x] <- V[x] >> 1`, reading `V[x]` as it now stands. -/
def shiftRightV (x : Reg) (s : State) : State := writeV s x (readV s x >>> 1)

/-- `V[x] <- (V[x] << 1) mod 256`, reading `V[x]` as it now stands. -/
def shiftLeftV (x : Reg) (s : State) : State := writeV s x (readV s x <<< 1)

/-- 8xy6 (R109): VF first, then the shift; `y` is not read. -/
def execShr (x _y : Reg) (s : State) : Result :=
  .next (advance (shiftRightV x (writeFlag s (lowBit (readV s x)))))

/-- 8xy7 (R110): the difference first, VF last. -/
def execSubn (x y : Reg) (s : State) : Result :=
  .next (advance (writeFlag (writeV s x (readV s y - readV s x)) (noBorrow (readV s y) (readV s x))))

/-- 8xyE (R111): VF first, then the shift; `y` is not read. -/
def execShl (x _y : Reg) (s : State) : Result :=
  .next (advance (shiftLeftV x (writeFlag s (topBit (readV s x)))))

/-- The effect of Cxnn for a given random byte (R112). -/
def maskedRandom (rnd : Byte) (x : Reg) (nn : Byte) (s : State) : State := advance (writeV s x (rnd &&& nn))

/-- Cxnn (R112): the random byte is the next free value (assumption log 1). -/
def execRnd (x : Reg) (nn : Byte) (s : State) : Result :=
  .next (maskedRandom (Config.freeByte s.draws) x nn (consumeDraw s))

end Sys2Proof.Machine
end

