-- ==== Sys2Proof/Machine/Step.lean ====
section
/-!
DEFINITION. The `STEP` operation (spec/40_step_and_flow.md R80) and where it fetches its next instruction.
-/

namespace Sys2Proof.Machine

/-- `STEP` (R80): halted, fetch and decode are `fetchInstr`'s; then the instruction executes. -/
def step (s : State) : Host.Outcome State Fault Refusal :=
  match fetchInstr s with
  | .idle => .next s
  | .trap t => .next t
  | .run i => exec i s

/-- The state with an instruction placed at `pc`, where the next step fetches it. A `pc` past 4094 has no place for
one, and a halted machine fetches nothing; both are left as they are (assumption log 3 and 12). -/
def State.withFetchWord (s : State) (nbits w : Nat) : State :=
  if fetchOutside s then s else { s with mem := s.mem.store s.pc.toNat (tableWordBytes nbits w) }

end Sys2Proof.Machine
end

