-- ==== Sys2Proof/Machine/HostOps.lean ====
section
/-!
DEFINITION. The operations the host issues between steps (spec/10_state.md R30; spec/60_exceptions.md R165 to R167;
spec/70_reset_and_hazards.md R180 to R186), and all seven as one interface. `POWER_ON` is `powerOn` of Ops.lean.
-/

namespace Sys2Proof.Machine

/-- `INITIALIZE` with a given font: the bytes at addresses 0 upward, nothing else (R181). -/
def loadFont (font : List Byte) (s : State) : State := { s with mem := s.mem.store 0 font }

/-- `INITIALIZE` (R181) with the `FONT` of R27 (assumption log 6). -/
def loadFontSet (s : State) : State := loadFont Config.font s

/-- What `LOAD_PROGRAM` answers (R184). -/
inductive LoadResult where
  | ok
  | capacityError
  deriving DecidableEq, Repr

/-- `LOAD_PROGRAM(bytes)` (R184, R185): the length is checked before anything is copied. -/
def loadProgram (bytes : List Byte) (s : State) : LoadResult × State :=
  if programFits bytes then (.ok, { s with mem := s.mem.store Config.programBase bytes })
  else (.capacityError, s)

/-- One timer's tick: toward 0, never below (R165, R166). -/
def countDown (b : Byte) : Byte := if b = 0 then 0 else b - 1

/-- `TICK_TIMERS` (R165 to R167): the beep is the tick that takes `ST` from 1 to 0. -/
def tickTimers (s : State) : Bool × State :=
  (s.st == 1, { s with dt := countDown s.dt, st := countDown s.st })

/-- `SET_KEY(k, b)` (R23, R30). -/
def setKey (k : Fin 16) (b : Bool) (s : State) : State := { s with keys := s.keys.set k b }

/-- `CLEAR_DRAW_FLAG` (R24, R30). -/
def clearDrawFlag (s : State) : State := { s with drawFlag := false }

/-- The seven operations (R30). The random byte `rnd` of `STEP` is a free value, not an argument (assumption log 1). -/
inductive HostOp where
  | powerOn
  | loadFontSet
  | loadProgram (bytes : List Byte)
  | step
  | tickTimers
  | setKey (k : Fin 16) (b : Bool)
  | clearDrawFlag
  deriving DecidableEq, Repr

/-- What an operation answers (R30). -/
inductive Response where
  /-- The operation has no result. -/
  | none
  /-- `STEP` or `LOAD_PROGRAM` succeeded. -/
  | ok
  /-- `STEP` latched a fault, or found one latched (R80, R81). -/
  | fault (code : FaultCode)
  /-- `LOAD_PROGRAM` was given too many bytes (R184). -/
  | capacityError
  /-- `TICK_TIMERS`' beep (R26, R166). -/
  | beep (b : Bool)
  deriving DecidableEq, Repr

/-- What `STEP` answers, read off the state it leaves (R80, R81; assumption log 16). -/
def stepResponse (t : State) : Response := if t.halted then .fault t.faultCode else .ok

/-- What `LOAD_PROGRAM` answers, as an operation's answer. -/
def loadResponse : LoadResult → Response
  | .ok => .ok
  | .capacityError => .capacityError

/-- One operation, atomic (R30, R50): its answer and the state it leaves. -/
def perform (op : HostOp) (s : State) : Host.Outcome (Response × State) Fault Refusal :=
  match op with
  | .powerOn => .next (.none, Sys2Proof.Machine.powerOn s)
  | .loadFontSet => .next (.none, Sys2Proof.Machine.loadFontSet s)
  | .loadProgram bytes =>
    .next (loadResponse (Sys2Proof.Machine.loadProgram bytes s).1, (Sys2Proof.Machine.loadProgram bytes s).2)
  | .step =>
    match Sys2Proof.Machine.step s with
    | .next t => .next (stepResponse t, t)
    | .fault r => .fault r
    | .refused r => .refused r
  | .tickTimers => .next (.beep (Sys2Proof.Machine.tickTimers s).1, (Sys2Proof.Machine.tickTimers s).2)
  | .setKey k b => .next (.none, Sys2Proof.Machine.setKey k b s)
  | .clearDrawFlag => .next (.none, Sys2Proof.Machine.clearDrawFlag s)

/-- A sequence of operations, with the answer of each. -/
def performAll : List HostOp → State → Host.Outcome (List Response × State) Fault Refusal
  | [], s => .next ([], s)
  | op :: ops, s =>
    match perform op s with
    | .next (r, t) =>
      match performAll ops t with
      | .next (rs, u) => .next (r :: rs, u)
      | .fault e => .fault e
      | .refused e => .refused e
    | .fault e => .fault e
    | .refused e => .refused e

/-- The driver's contract for one frame (R192): `IPF` steps, then one tick. Its parameters are an argument (R6, D20). -/
def frameOps (d : Config.Driver) : List HostOp := List.replicate d.ipf .step ++ [.tickTimers]

/-- The boot sequence of R186. -/
def bootOps (bytes : List Byte) : List HostOp := [.powerOn, .loadFontSet, .loadProgram bytes]

end Sys2Proof.Machine
end

