-- ==== Sys2Proof/Safety.lean ====
section
/-!
DEFINITION. The terms claims use: what counts as a safe run (spec/60_exceptions.md R158, R159), the end of a run
(spec/70_reset_and_hazards.md R194), the invariant of spec/10_state.md R32, reachable states, and what a frame is.
-/

namespace Sys2Proof.Machine

/-- A run has failed once a fault is latched: a halted state is never a normal end (R159). -/
def Failed (s : State) : Prop := s.halted = true

/-- No fault is latched. -/
def Running (s : State) : Prop := s.halted = false

/-- The program has ended in the sense of R194: `pc` addresses a 1nnn whose `nnn` is its own address. -/
def Ended (s : State) : Prop :=
  Running s ∧ fetchOutside s = false ∧ ∃ nnn : Addr, decodeWord (fetchWord s) = some (.jp nnn) ∧ zextAddr nnn = s.pc

/-- What R32 says of every reachable state, where the types do not say it already: memory in its canonical form, `pc` at
most 0x10FE, every valid stack entry the address of a fetched instruction, and the latch telling one story. -/
structure Inv (s : State) : Prop where
  memCanonical : s.mem.wf = true
  pcBound : s.pc.toNat ≤ 0x10FE
  stackEntries : ∀ k : Fin 16, k.val < s.sp.val → s.stack[k].toNat ≤ 4094
  latchClear : s.halted = false → s.faultCode = .none ∧ s.faultPc = 0 ∧ s.faultInfo = 0
  latchSet : s.halted = true → s.faultCode ≠ .none ∧ s.faultPc = s.pc

/-- A state the host can bring about from `POWER_ON` by operations of R30. -/
inductive Reachable : State → Prop where
  | reset : Reachable State.reset
  | perform {s t : State} {op : HostOp} {r : Response} :
      Reachable s → Sys2Proof.Machine.perform op s = .next (r, t) → Reachable t

/-- `TicksSince setter s k u`: the host brought `u` about from `s` by any operations but `POWER_ON`, `k` of them ticks, and no step
among them ran a `setter` instruction (a step of a halted machine, or one that faults at its fetch, runs none). With Fx15 or Fx18 as
the setter, `k` is the number of `TICK_TIMERS` since that timer was written (R144, R166). -/
inductive TicksSince (setter : Reg → Instr) (s : State) : Nat → State → Prop where
  | start : TicksSince setter s 0 s
  | tick {k : Nat} {t u : State} {r : Response} :
      TicksSince setter s k t → perform .tickTimers t = .next (r, u) → TicksSince setter s (k + 1) u
  | other {k : Nat} {t u : State} {op : HostOp} {r : Response} :
      TicksSince setter s k t → op ≠ .tickTimers → op ≠ .powerOn →
      (op = .step → ∀ x, fetchInstr t ≠ .run (setter x)) →
      perform op t = .next (r, u) → TicksSince setter s k u

/-- The parts of the state a frame speaks of. `latch` is the four elements of R25, `draws` the model's own counter. -/
inductive Part where
  | v | i | pc | stack | dt | st | fb | drawFlag | keys | mem | latch | draws
  deriving DecidableEq, Repr

/-- A part is the same in two states. Memory is compared byte by byte, through the read of one byte. -/
def Part.same (s t : State) : Part → Prop
  | .v => t.v = s.v
  | .i => t.i = s.i
  | .pc => t.pc = s.pc
  | .stack => t.stack = s.stack ∧ t.sp = s.sp
  | .dt => t.dt = s.dt
  | .st => t.st = s.st
  | .fb => t.fb = s.fb
  | .drawFlag => t.drawFlag = s.drawFlag
  | .keys => t.keys = s.keys
  | .mem => ∀ a, t.mem.read a = s.mem.read a
  | .latch => t.halted = s.halted ∧ t.faultCode = s.faultCode ∧ t.faultPc = s.faultPc ∧ t.faultInfo = s.faultInfo
  | .draws => t.draws = s.draws

/-- Every part but the listed ones is the same. -/
def SameBut (changed : List Part) (s t : State) : Prop := ∀ p : Part, p ∉ changed → p.same s t

/-- Every general register but those that satisfy `written` is the same. -/
def SameRegsBut (written : Reg → Prop) (s t : State) : Prop := ∀ r : Reg, ¬ written r → t.v[r] = s.v[r]

/-- The fault latch after `raise code(info)` in `s` (R158): `t` is `s` with the four elements written. The last clause leaves
`fault_info` open where `info` does not fit its 16 bits (assumption log 2). -/
def FaultTaken (code : FaultCode) (info : Nat) (s t : State) : Prop :=
  t.halted = true ∧ t.faultCode = code ∧ t.faultPc = s.pc ∧
  SameBut [.latch, .draws] s t ∧ (info < 65536 → t.faultInfo.toNat = info ∧ t.draws = s.draws)

end Sys2Proof.Machine
end

