-- ==== Sys2Proof/Certificates/Slice0/Obligations.lean ====
section
/-!
DEFINITION. The statements for the provers. `spec` names a file of spec/; a docstring that says "the spec's own decision" names
a choice spec/92_eei_decisions.md marks as the spec's and not its source's.
-/

open Sys2Proof Sys2Proof.Machine

namespace Sys2Proof.Claims

/-- `t` is `s` after an instruction that writes `b` to `V[x]`, advances, and does nothing else. -/
def WritesOnly (x : Reg) (b : Byte) (s t : State) : Prop :=
  t.v[x] = b ∧ SameRegsBut (· = x) s t ∧ t.pc = s.pc + 2 ∧ SameBut [.v, .pc] s t

/-- `t` is `s` after an instruction that writes the number `n` to `V[x]` and then the flag `f` to VF, advances, and does nothing
else. Where `x` is 15 the flag is what remains. -/
def WritesWithFlag (x : Reg) (n : Nat) (f : Prop) (s t : State) : Prop :=
  (x ≠ 15 → t.v[x].toNat = n) ∧ ((f ∧ t.v[(15 : Reg)] = 1) ∨ (¬ f ∧ t.v[(15 : Reg)] = 0)) ∧
  SameRegsBut (fun r => r = x ∨ r = 15) s t ∧ t.pc = s.pc + 2 ∧ SameBut [.v, .pc] s t

/-- `t` is `s` after a skip instruction whose condition is `c`. -/
def Skips (c : Prop) (s t : State) : Prop :=
  ((c ∧ t.pc = s.pc + 4) ∨ (¬ c ∧ t.pc = s.pc + 2)) ∧ SameBut [.pc] s t

/-- Does a set bit of the `n`-row sprite at `I`, drawn at `(V[x], V[y])`, land on cell `k` (R131's formula)? -/
def SpriteCovers (x y : Reg) (n : Nat) (s : State) (k : Fin 2048) : Prop :=
  ∃ r < n, ∃ c < 8, (s.mem.read (s.i.toNat + r)).getLsbD (7 - c) = true ∧
    k.val = (s.v[x].toNat + c + (s.v[y].toNat + r) * 64) % 2048

/-- What address `a` reads as after the `count` bytes `b 0`, `b 1`, … are stored from `base` upward. -/
def readAfterStore (m : Memory) (base count : Nat) (b : Nat → Byte) (a : Nat) : Byte :=
  if base ≤ a ∧ a < base + count then b (a - base) else m.read a

/-- The word at `a` after such a store, the byte at the lower address the high half (R42). -/
def wordAfterStore (m : Memory) (base count : Nat) (b : Nat → Byte) (a : Nat) : Word :=
  joinBytes (readAfterStore m base count b a) (readAfterStore m base count b (a + 1))

/-- Digit `k` of a byte in decimal: hundreds, tens, units. -/
def decimalDigit (n : Byte) (k : Nat) : Byte := BitVec.ofNat 8 (n.toNat / 10 ^ (2 - k) % 10)

/-- The one check of an instruction, as the table of R150 lists it: the fault and its info, if the check fails. -/
def instrFault (s : State) : Instr → Option (FaultCode × Nat)
  | .call nnn => if s.sp.val = 16 then some (.stackOverflow, nnn.toNat) else none
  | .ret => if s.sp.val = 0 then some (.stackUnderflow, 0) else none
  | .drw _ _ n => if 1 ≤ n ∧ 4095 < s.i.toNat + n - 1 then some (.memBounds, s.i.toNat + n - 1) else none
  | .ldB _ => if 4095 < s.i.toNat + 2 then some (.memBounds, s.i.toNat + 2) else none
  | .stRegs x => if 4095 < s.i.toNat + x.val then some (.memBounds, s.i.toNat + x.val) else none
  | .ldRegs x => if 4095 < s.i.toNat + x.val then some (.memBounds, s.i.toNat + x.val) else none
  | .skp x => if 15 < s.v[x].toNat then some (.keyIndex, s.v[x].toNat) else none
  | .sknp x => if 15 < s.v[x].toNat then some (.keyIndex, s.v[x].toNat) else none
  | .cls => none
  | .jp _ => none
  | .seImm _ _ => none
  | .sneImm _ _ => none
  | .seReg _ _ => none
  | .ldImm _ _ => none
  | .addImm _ _ => none
  | .ldReg _ _ => none
  | .orReg _ _ => none
  | .andReg _ _ => none
  | .xorReg _ _ => none
  | .addReg _ _ => none
  | .sub _ _ => none
  | .shr _ _ => none
  | .subn _ _ => none
  | .shl _ _ => none
  | .sneReg _ _ => none
  | .ldI _ => none
  | .jpV0 _ => none
  | .rnd _ _ => none
  | .ldVxDt _ => none
  | .ldVxK _ => none
  | .ldDtVx _ => none
  | .ldStVx _ => none
  | .addI _ => none
  | .ldF _ => none

/-- The fault the next step of a running state takes, in the priority of R160. -/
def stepFault (s : State) : Option (FaultCode × Nat) :=
  if 4094 < s.pc.toNat then some (.fetchBounds, s.pc.toNat)
  else
    match decodeWord (fetchWord s) with
    | none => some (.decodeError, (fetchWord s).toNat)
    | some i => instrFault s i

/-- What an instruction may write besides `pc`, as R11, R12, R14, R17, R20 to R24, R45 and R150 list it. `latch` stands where
R150 names the instruction, and `draws`, the model's own counter, where a free value may be consumed. -/
def mayWrite : Instr → List Part
  | .cls => [.fb, .drawFlag]
  | .ret => [.stack, .latch]
  | .jp _ => []
  | .call _ => [.stack, .latch]
  | .seImm _ _ => []
  | .sneImm _ _ => []
  | .seReg _ _ => []
  | .ldImm _ _ => [.v]
  | .addImm _ _ => [.v]
  | .ldReg _ _ => [.v]
  | .orReg _ _ => [.v]
  | .andReg _ _ => [.v]
  | .xorReg _ _ => [.v]
  | .addReg _ _ => [.v]
  | .sub _ _ => [.v]
  | .shr _ _ => [.v]
  | .subn _ _ => [.v]
  | .shl _ _ => [.v]
  | .sneReg _ _ => []
  | .ldI _ => [.i]
  | .jpV0 _ => []
  | .rnd _ _ => [.v, .draws]
  | .drw _ _ _ => [.v, .fb, .drawFlag, .latch, .draws]
  | .skp _ => [.latch]
  | .sknp _ => [.latch]
  | .ldVxDt _ => [.v]
  | .ldVxK _ => [.v]
  | .ldDtVx _ => [.dt]
  | .ldStVx _ => [.st]
  | .addI _ => [.v, .i]
  | .ldF _ => [.i]
  | .ldB _ => [.mem, .latch, .draws]
  | .stRegs _ => [.mem, .latch, .draws]
  | .ldRegs _ => [.v, .latch, .draws]

/-- Does an instruction write `V[r]` (R11, R12)? -/
def writesReg (r : Reg) : Instr → Bool
  | .ldImm x _ => r == x
  | .addImm x _ => r == x
  | .ldReg x _ => r == x
  | .orReg x _ => r == x
  | .andReg x _ => r == x
  | .xorReg x _ => r == x
  | .addReg x _ => r == x || r == 15
  | .sub x _ => r == x || r == 15
  | .shr x _ => r == x || r == 15
  | .subn x _ => r == x || r == 15
  | .shl x _ => r == x || r == 15
  | .rnd x _ => r == x
  | .drw _ _ _ => r == 15
  | .ldVxDt x => r == x
  | .ldVxK x => r == x
  | .addI _ => r == 15
  | .ldRegs x => decide (r ≤ x)
  | .cls => false
  | .ret => false
  | .jp _ => false
  | .call _ => false
  | .seImm _ _ => false
  | .sneImm _ _ => false
  | .seReg _ _ => false
  | .sneReg _ _ => false
  | .ldI _ => false
  | .jpV0 _ => false
  | .skp _ => false
  | .sknp _ => false
  | .ldDtVx _ => false
  | .ldStVx _ => false
  | .ldF _ => false
  | .ldB _ => false
  | .stRegs _ => false

/-- How many bytes from `I` an instruction stores to (R45). -/
def storeCount : Instr → Nat
  | .ldB _ => 3
  | .stRegs x => x.val + 1
  | .cls => 0
  | .ret => 0
  | .jp _ => 0
  | .call _ => 0
  | .seImm _ _ => 0
  | .sneImm _ _ => 0
  | .seReg _ _ => 0
  | .ldImm _ _ => 0
  | .addImm _ _ => 0
  | .ldReg _ _ => 0
  | .orReg _ _ => 0
  | .andReg _ _ => 0
  | .xorReg _ _ => 0
  | .addReg _ _ => 0
  | .sub _ _ => 0
  | .shr _ _ => 0
  | .subn _ _ => 0
  | .shl _ _ => 0
  | .sneReg _ _ => 0
  | .ldI _ => 0
  | .jpV0 _ => 0
  | .rnd _ _ => 0
  | .drw _ _ _ => 0
  | .skp _ => 0
  | .sknp _ => 0
  | .ldVxDt _ => 0
  | .ldVxK _ => 0
  | .ldDtVx _ => 0
  | .ldStVx _ => 0
  | .addI _ => 0
  | .ldF _ => 0
  | .ldRegs _ => 0

/-- Does an instruction read the keypad (R23: Ex9E, ExA1 and Fx0A)? -/
def readsKeys : Instr → Bool
  | .skp _ => true
  | .sknp _ => true
  | .ldVxK _ => true
  | .cls => false
  | .ret => false
  | .jp _ => false
  | .call _ => false
  | .seImm _ _ => false
  | .sneImm _ _ => false
  | .seReg _ _ => false
  | .ldImm _ _ => false
  | .addImm _ _ => false
  | .ldReg _ _ => false
  | .orReg _ _ => false
  | .andReg _ _ => false
  | .xorReg _ _ => false
  | .addReg _ _ => false
  | .sub _ _ => false
  | .shr _ _ => false
  | .subn _ _ => false
  | .shl _ _ => false
  | .sneReg _ _ => false
  | .ldI _ => false
  | .jpV0 _ => false
  | .rnd _ _ => false
  | .drw _ _ _ => false
  | .ldVxDt _ => false
  | .ldDtVx _ => false
  | .ldStVx _ => false
  | .addI _ => false
  | .ldF _ => false
  | .ldB _ => false
  | .stRegs _ => false
  | .ldRegs _ => false

end Sys2Proof.Claims

open Sys2Proof.Claims

/-! ### Encoding -/

/-- Words of spec/95_test_vectors.md T1 to T6 and of the examples of R42, R101 and R112, written as their two bytes, decode to the
instructions they stand for; three invalid words (T7, T10, T18) do not decode. -/
def Obligations.SpecWordsDecode : Prop :=
  decodeWord (joinBytes 0xD1 0x25) = some (.drw 1 2 5) ∧ decodeWord (joinBytes 0x00 0xE0) = some .cls ∧
  decodeWord (joinBytes 0xFA 0x65) = some (.ldRegs 10) ∧ decodeWord (joinBytes 0x8A 0xBE) = some (.shl 10 11) ∧
  decodeWord (joinBytes 0xB2 0x04) = some (.jpV0 0x204) ∧ decodeWord (joinBytes 0xE0 0xA1) = some (.sknp 0) ∧
  decodeWord (joinBytes 0x12 0x34) = some (.jp 0x234) ∧ decodeWord (joinBytes 0x6A 0x2F) = some (.ldImm 10 0x2F) ∧
  decodeWord (joinBytes 0xC3 0x0F) = some (.rnd 3 0x0F) ∧ decodeWord (joinBytes 0x00 0x00) = none ∧
  decodeWord (joinBytes 0x51 0x21) = none ∧ decodeWord (joinBytes 0xF1 0x75) = none

/-- Decoding the two bytes of any well-formed instruction gives the instruction back, with every operand, and leaves the
bytes after it. -/
def Obligations.DecodeInvertsEncode : Prop :=
  ∀ (i : Instr) (rest : List Byte), i.wellFormed = true → decode (encodeBytes i ++ rest) = .ok (i, rest)

/-- Each word has one meaning: what a word decodes to is well-formed and encodes back to that very word. -/
def Obligations.EncodeInvertsDecode : Prop :=
  ∀ (op : Word) (i : Instr), decodeWord op = some i → i.wellFormed = true ∧ encode i = op

/-- The decoder written as R64's case tree accepts exactly the words that R65's mask-and-match rows select, and answers the
instruction of the one row that selects the word. -/
def Obligations.DecoderAgreesWithOpcodeMap : Prop :=
  ∀ op : Word,
    ((∃ i, decodeWord op = some i) ↔ ∃ r ∈ opcodeTable, r.selects op = true) ∧
    ∀ i, decodeWord op = some i → ∀ r ∈ opcodeTable, (r.selects op = true ↔ r = i.row)

/-! ### The step -/

/-- When the two bytes at `pc` decode to `i`, a step of a running machine is `i` executed (R80); nothing is added around it. -/
def Obligations.StepRunsDecodedInstruction : Prop :=
  ∀ (s : State) (i : Instr), s.halted = false → s.pc.toNat ≤ 4094 →
    decode [s.mem.read s.pc.toNat, s.mem.read (s.pc.toNat + 1)] = .ok (i, []) → step s = exec i s

/-- A fetched word that is no instruction raises DecodeError, with the opcode as info and its address as `fault_pc`; no
state other than the latch changes, so `pc` still addresses the word (40_step_and_flow.md section 1; the latch and the code are the
spec's own decision D10). -/
def Obligations.InvalidWordRaisesDecodeError : Prop :=
  ∀ s : State, s.halted = false → s.pc.toNat ≤ 4094 → decodeWord (fetchWord s) = none →
    ∃ t, step s = .next t ∧ FaultTaken .decodeError (fetchWord s).toNat s t

/-- A `pc` above 4094 raises FetchBounds with `pc` as info, before anything is fetched (the spec's own decision D7). -/
def Obligations.FetchOutsideRaisesFetchBounds : Prop :=
  ∀ s : State, s.halted = false → 4094 < s.pc.toNat →
    ∃ t, step s = .next t ∧ FaultTaken .fetchBounds s.pc.toNat s t

/-- While halted any number of steps changes nothing and each answers the latched code (the spec's own decision D10). -/
def Obligations.HaltedStepsChangeNothing : Prop :=
  ∀ (s : State) (k : Nat), s.halted = true →
    Host.Core.run Sys2Proof.core k s = .next s ∧ perform .step s = .next (.fault s.faultCode, s)

/-- No instruction and no step is left without a next state, whatever the state: nothing is refused, and every fault of R150
is taken (the model's reading of R158, assumption log 10). -/
def Obligations.EveryStepHasNextState : Prop :=
  (∀ (i : Instr) (s : State), ∃ t, exec i s = .next t) ∧ (∀ s : State, ∃ t, step s = .next t)

/-! ### Control flow -/

/-- R86: 1nnn sets `pc` to `nnn`, for every `nnn`, and changes nothing else. -/
def Obligations.JumpSetsPc : Prop :=
  ∀ (nnn : Addr) (s : State), ∃ t, exec (.jp nnn) s = .next t ∧ t.pc.toNat = nnn.toNat ∧ SameBut [.pc] s t

/-- Bnnn sets `pc` to the unmasked sum `nnn + V[0]` (the spec's own decision D2: 16 bits, never masked) and changes nothing else. -/
def Obligations.IndexedJumpKeepsWholeSum : Prop :=
  ∀ (nnn : Addr) (s : State), ∃ t, exec (.jpV0 nnn) s = .next t ∧
    t.pc.toNat = nnn.toNat + s.v[(0 : Reg)].toNat ∧ SameBut [.pc] s t

/-- A program that has ended (it sits on a jump to itself, the convention of the spec's own decision D28) is a fixed point of
the step. -/
def Obligations.EndedProgramIsFixedPoint : Prop :=
  ∀ s : State, Ended s → step s = .next s

/-- 2nnn with room on the stack pushes its own address and jumps (stack layout: the spec's own decision D4). -/
def Obligations.CallPushesItsAddress : Prop :=
  ∀ (nnn : Addr) (s : State), s.sp.val < 16 → ∃ t, exec (.call nnn) s = .next t ∧
    t.pc.toNat = nnn.toNat ∧ t.sp.val = s.sp.val + 1 ∧
    (∀ k : Fin 16, (k.val = s.sp.val → t.stack[k] = s.pc) ∧ (k.val ≠ s.sp.val → t.stack[k] = s.stack[k])) ∧
    SameBut [.pc, .stack] s t

/-- 00EE with a call active pops the most recent entry, which keeps its value, and goes to that address plus 2 (stack layout: the
spec's own decision D4). -/
def Obligations.ReturnGoesBehindCall : Prop :=
  ∀ (s : State) (k : Fin 16), s.sp.val = k.val + 1 → ∃ t, exec .ret s = .next t ∧
    t.pc = s.stack[k] + 2 ∧ t.sp.val = k.val ∧ t.stack = s.stack ∧ SameBut [.pc, .stack] s t

/-- A 17th nested call and a return without a call fault and change nothing but the latch (the spec's own decisions D5, D6). -/
def Obligations.StackEndsFault : Prop :=
  (∀ (nnn : Addr) (s : State), s.sp.val = 16 →
    ∃ t, exec (.call nnn) s = .next t ∧ FaultTaken .stackOverflow nnn.toNat s t) ∧
  (∀ s : State, s.sp.val = 0 → ∃ t, exec .ret s = .next t ∧ FaultTaken .stackUnderflow 0 s t)

/-- Call and return round trip (R93, derived there): a return from the state `u`, whatever happened since the call in `s`, goes behind
that call, if the stack pointer is back and the call's entry untouched. -/
def Obligations.CallReturnRoundTrip : Prop :=
  ∀ (nnn : Addr) (s s₁ u : State), s.sp.val < 16 → exec (.call nnn) s = .next s₁ → u.sp = s₁.sp →
    (∀ k : Fin 16, k.val = s.sp.val → u.stack[k] = s₁.stack[k]) →
    ∃ t, exec .ret u = .next t ∧ t.pc = s.pc + 2 ∧ t.sp = s.sp

/-- R88 to R91: 3xnn, 4xnn, 5xy0, 9xy0 advance by 4 when their condition holds, else by 2, and change nothing else. -/
def Obligations.RegisterSkips : Prop :=
  ∀ (x y : Reg) (nn : Byte) (s : State),
    (∃ t, exec (.seImm x nn) s = .next t ∧ Skips (s.v[x] = nn) s t) ∧
    (∃ t, exec (.sneImm x nn) s = .next t ∧ Skips (s.v[x] ≠ nn) s t) ∧
    (∃ t, exec (.seReg x y) s = .next t ∧ Skips (s.v[x] = s.v[y]) s t) ∧
    (∃ t, exec (.sneReg x y) s = .next t ∧ Skips (s.v[x] ≠ s.v[y]) s t)

/-! ### Load and arithmetic -/

/-- R101 to R106: 6xnn, 7xnn, 8xy0, 8xy1, 8xy2, 8xy3 write `V[x]` and nothing else; VF is unchanged unless it is `V[x]`. -/
def Obligations.PlainRegisterWrites : Prop :=
  ∀ (x y : Reg) (nn : Byte) (s : State),
    (∃ t, exec (.ldImm x nn) s = .next t ∧ WritesOnly x nn s t) ∧
    (∃ t, exec (.addImm x nn) s = .next t ∧ WritesOnly x (BitVec.ofNat 8 ((s.v[x].toNat + nn.toNat) % 256)) s t) ∧
    (∃ t, exec (.ldReg x y) s = .next t ∧ WritesOnly x s.v[y] s t) ∧
    (∃ t, exec (.orReg x y) s = .next t ∧ WritesOnly x (s.v[x] ||| s.v[y]) s t) ∧
    (∃ t, exec (.andReg x y) s = .next t ∧ WritesOnly x (s.v[x] &&& s.v[y]) s t) ∧
    (∃ t, exec (.xorReg x y) s = .next t ∧ WritesOnly x (s.v[x] ^^^ s.v[y]) s t)

/-- 8xy4, 8xy5, 8xy7 write the result modulo 256 and then VF: carry, or not-borrow (41_load_alu.md section 3). Where `x` is 15 VF
ends as the flag: the order of the two writes is the spec's own decision D12 (assumption log 8). -/
def Obligations.AddAndSubtractWithFlag : Prop :=
  ∀ (x y : Reg) (s : State),
    (∃ t, exec (.addReg x y) s = .next t ∧
      WritesWithFlag x ((s.v[x].toNat + s.v[y].toNat) % 256) (255 < s.v[x].toNat + s.v[y].toNat) s t) ∧
    (∃ t, exec (.sub x y) s = .next t ∧
      WritesWithFlag x ((256 + s.v[x].toNat - s.v[y].toNat) % 256) (¬ s.v[x].toNat < s.v[y].toNat) s t) ∧
    (∃ t, exec (.subn x y) s = .next t ∧
      WritesWithFlag x ((256 + s.v[y].toNat - s.v[x].toNat) % 256) (¬ s.v[y].toNat < s.v[x].toNat) s t)

/-- 8xy6 and 8xyE for `x` other than 15: half or double of `V[x]`, the bit moved out in VF; `V[y]` plays no part. For `x` = 15 VF
is written first and the shift then reads it: 8Fy6 leaves 0, 8FyE leaves twice the old top bit (the spec's own decision
D12, assumption log 8). -/
def Obligations.ShiftsWithFlag : Prop :=
  ∀ (x y : Reg) (s : State),
    (∃ t, exec (.shr x y) s = .next t ∧ t.pc = s.pc + 2 ∧ SameBut [.v, .pc] s t ∧
      SameRegsBut (fun r => r = x ∨ r = 15) s t ∧
      (x ≠ 15 → t.v[x].toNat = s.v[x].toNat / 2 ∧ t.v[(15 : Reg)].toNat = s.v[x].toNat % 2) ∧
      (x = 15 → t.v[(15 : Reg)] = 0)) ∧
    (∃ t, exec (.shl x y) s = .next t ∧ t.pc = s.pc + 2 ∧ SameBut [.v, .pc] s t ∧
      SameRegsBut (fun r => r = x ∨ r = 15) s t ∧
      (x ≠ 15 → t.v[x].toNat = 2 * s.v[x].toNat % 256 ∧ t.v[(15 : Reg)].toNat = s.v[x].toNat / 128) ∧
      (x = 15 → t.v[(15 : Reg)].toNat = 2 * (s.v[(15 : Reg)].toNat / 128)))

/-- Cxnn writes the next free byte masked with `nn`, so that no bit outside `nn` is ever set, and consumes that free value. The free
value and its counter are the model's form of the spec's own decision D17 (assumption log 1). -/
def Obligations.RandomByteIsMasked : Prop :=
  ∀ (x : Reg) (nn : Byte) (s : State), ∃ t, exec (.rnd x nn) s = .next t ∧
    t.v[x] = Config.freeByte s.draws &&& nn ∧ t.v[x] &&& ~~~nn = 0 ∧ t.draws = s.draws + 1 ∧
    SameRegsBut (· = x) s t ∧ t.pc = s.pc + 2 ∧ SameBut [.v, .pc, .draws] s t

/-! ### Index register and memory -/

/-- R120: Annn loads I with `nnn`, zero-extended, and changes nothing else. -/
def Obligations.LoadIndexImmediate : Prop :=
  ∀ (nnn : Addr) (s : State), ∃ t, exec (.ldI nnn) s = .next t ∧
    t.i.toNat = nnn.toNat ∧ t.pc = s.pc + 2 ∧ SameBut [.i, .pc] s t

/-- Fx1E keeps the sum modulo 65536 and sets VF from the unreduced sum; Fx29 multiplies the whole byte by 5 (the spec's own
decisions D3, D16). -/
def Obligations.IndexArithmetic : Prop :=
  ∀ (x : Reg) (s : State),
    (∃ t, exec (.addI x) s = .next t ∧ t.i.toNat = (s.i.toNat + s.v[x].toNat) % 65536 ∧
      ((0xFFF < s.i.toNat + s.v[x].toNat ∧ t.v[(15 : Reg)] = 1) ∨
        (s.i.toNat + s.v[x].toNat ≤ 0xFFF ∧ t.v[(15 : Reg)] = 0)) ∧
      SameRegsBut (· = 15) s t ∧ t.pc = s.pc + 2 ∧ SameBut [.v, .i, .pc] s t) ∧
    (∃ t, exec (.ldF x) s = .next t ∧ t.i.toNat = s.v[x].toNat * 5 ∧ t.pc = s.pc + 2 ∧ SameBut [.i, .pc] s t)

/-- Fx33 inside the memory stores the hundreds, tens and units digit at `I`, `I + 1`, `I + 2`, and changes no other byte and
nothing else. The memory is in canonical form, which every run keeps (`StepKeepsInvariant`). -/
def Obligations.DecimalDigitsStored : Prop :=
  ∀ (x : Reg) (s : State), s.mem.wf = true → s.i.toNat + 2 ≤ 4095 →
    ∃ t, exec (.ldB x) s = .next t ∧
      (t.mem.read s.i.toNat).toNat = s.v[x].toNat / 100 ∧
      (t.mem.read (s.i.toNat + 1)).toNat = s.v[x].toNat / 10 % 10 ∧
      (t.mem.read (s.i.toNat + 2)).toNat = s.v[x].toNat % 10 ∧
      (∀ a, a < s.i.toNat ∨ s.i.toNat + 3 ≤ a → t.mem.read a = s.mem.read a) ∧
      t.mem.wf = true ∧ t.pc = s.pc + 2 ∧ SameBut [.mem, .pc] s t

/-- Fx55 inside the memory stores `V[0]` to `V[x]` at `I` upward, and changes no other byte and nothing else, I included. -/
def Obligations.RegistersStored : Prop :=
  ∀ (x : Reg) (s : State), s.mem.wf = true → s.i.toNat + x.val ≤ 4095 →
    ∃ t, exec (.stRegs x) s = .next t ∧
      (∀ j : Reg, j ≤ x → t.mem.read (s.i.toNat + j.val) = s.v[j]) ∧
      (∀ a, a < s.i.toNat ∨ s.i.toNat + x.val < a → t.mem.read a = s.mem.read a) ∧
      t.mem.wf = true ∧ t.pc = s.pc + 2 ∧ SameBut [.mem, .pc] s t

/-- Fx65 inside the memory loads `V[0]` to `V[x]` from `I` upward; the registers above, I and memory are unchanged. -/
def Obligations.RegistersLoaded : Prop :=
  ∀ (x : Reg) (s : State), s.i.toNat + x.val ≤ 4095 →
    ∃ t, exec (.ldRegs x) s = .next t ∧
      (∀ j : Reg, j ≤ x → t.v[j] = s.mem.read (s.i.toNat + j.val)) ∧
      SameRegsBut (· ≤ x) s t ∧ t.pc = s.pc + 2 ∧ SameBut [.v, .pc] s t

/-- Store then load is the identity (R126, derived there): an Fx65 in any later state `u` with the same I and the stored bytes untouched
gives back the registers that Fx55 stored. -/
def Obligations.StoreThenLoadRestores : Prop :=
  ∀ (x : Reg) (s s₁ u : State), s.mem.wf = true → s.i.toNat + x.val ≤ 4095 → exec (.stRegs x) s = .next s₁ →
    u.i = s.i →
    (∀ a, s.i.toNat ≤ a → a ≤ s.i.toNat + x.val → u.mem.read a = s₁.mem.read a) →
    ∃ t, exec (.ldRegs x) u = .next t ∧ ∀ j : Reg, j ≤ x → t.v[j] = s.v[j]

/-- Dxyn, Fx33, Fx55, Fx65 reaching beyond 4095 raise MemBounds with the last address as info, before any change. Where that
address does not fit the 16 bits of `fault_info` nothing is said of it. (The spec's own decisions D8, D10.) -/
def Obligations.AccessOutsideRaisesMemBounds : Prop :=
  ∀ (x y : Reg) (n : Nat) (s : State),
    (4095 < s.i.toNat + 2 → ∃ t, exec (.ldB x) s = .next t ∧ FaultTaken .memBounds (s.i.toNat + 2) s t) ∧
    (4095 < s.i.toNat + x.val → ∃ t, exec (.stRegs x) s = .next t ∧ FaultTaken .memBounds (s.i.toNat + x.val) s t) ∧
    (4095 < s.i.toNat + x.val → ∃ t, exec (.ldRegs x) s = .next t ∧ FaultTaken .memBounds (s.i.toNat + x.val) s t) ∧
    (1 ≤ n → 4095 < s.i.toNat + n - 1 →
      ∃ t, exec (.drw x y n) s = .next t ∧ FaultTaken .memBounds (s.i.toNat + n - 1) s t)

/-- Fetch is coherent with stores (R53, derived there): behind an Fx33 or Fx55 the next fetch sees each of its two bytes as stored
where the instruction stored to it, and as before where not, whether both, one or none of them was stored to. -/
def Obligations.NextFetchSeesStore : Prop :=
  ∀ (x : Reg) (s : State), s.mem.wf = true →
    (s.i.toNat + 2 ≤ 4095 → ∃ t, exec (.ldB x) s = .next t ∧ t.pc = s.pc + 2 ∧
      fetchWord t = wordAfterStore s.mem s.i.toNat 3 (decimalDigit s.v[x]) t.pc.toNat) ∧
    (s.i.toNat + x.val ≤ 4095 → ∃ t, exec (.stRegs x) s = .next t ∧ t.pc = s.pc + 2 ∧
      fetchWord t = wordAfterStore s.mem s.i.toNat (x.val + 1) (fun k => s.v[k]?.getD 0) t.pc.toNat)

/-! ### Display -/

/-- 00E0 clears all 2048 cells, sets the draw flag whether or not a cell changed (the spec's own decision D18), and changes
nothing else, VF included. -/
def Obligations.ClearScreen : Prop :=
  ∀ s : State, ∃ t, exec .cls s = .next t ∧ (∀ k, cellAt t.fb k = false) ∧ t.drawFlag = true ∧
    t.pc = s.pc + 2 ∧ SameBut [.fb, .drawFlag, .pc] s t

/-- Dxyn inside the memory: a cell is toggled exactly if a set sprite bit lands on it by the formula of R131; VF is 1 exactly if
such a cell was 1 before, else 0; the draw flag is set; nothing else changes. The coordinates are the registers before VF is
written, and column 0 is the most significant bit (the spec's own decisions D13, D14, D18). -/
def Obligations.SpriteXorsCoveredCells : Prop :=
  ∀ (x y : Reg) (n : Nat) (s : State), n < 16 → (n = 0 ∨ s.i.toNat + n ≤ 4096) →
    ∃ t, exec (.drw x y n) s = .next t ∧
      (∀ k, cellAt t.fb k = true ↔
        (cellAt s.fb k = true ∧ ¬ SpriteCovers x y n s k) ∨ (cellAt s.fb k = false ∧ SpriteCovers x y n s k)) ∧
      (((∃ k, SpriteCovers x y n s k ∧ cellAt s.fb k = true) ∧ t.v[(15 : Reg)] = 1) ∨
        ((¬ ∃ k, SpriteCovers x y n s k ∧ cellAt s.fb k = true) ∧ t.v[(15 : Reg)] = 0)) ∧
      t.drawFlag = true ∧ SameRegsBut (· = 15) s t ∧ t.pc = s.pc + 2 ∧ SameBut [.v, .fb, .drawFlag, .pc] s t

/-- Drawing the same sprite twice at the same place leaves the framebuffer as it was (R132, derived there), and the second draw
sets VF if the first left a covered cell at 1. -/
def Obligations.DrawTwiceRestores : Prop :=
  ∀ (x y : Reg) (n : Nat) (s s₁ u : State), n < 16 → (n = 0 ∨ s.i.toNat + n ≤ 4096) →
    exec (.drw x y n) s = .next s₁ → u.fb = s₁.fb → u.i = s.i → u.v[x] = s.v[x] → u.v[y] = s.v[y] →
    (∀ r < n, u.mem.read (s.i.toNat + r) = s.mem.read (s.i.toNat + r)) →
    ∃ t, exec (.drw x y n) u = .next t ∧ t.fb = s.fb ∧
      ((∃ k, SpriteCovers x y n s k ∧ cellAt s₁.fb k = true) → t.v[(15 : Reg)] = 1)

/-- Within one Dxyn no cell is touched twice (R134, derived there): the cells of a sprite of at most 15 rows are distinct. -/
def Obligations.SpriteCellsAreDistinct : Prop :=
  ∀ (px py : Byte) (rows : List Byte), rows.length ≤ 15 → (spriteCells px py 0 rows).Nodup

/-- What the single modulo means on the 64 by 32 screen (R133, derived there): columns wrap and step down one row, rows wrap. -/
def Obligations.CellIndexOnScreen : Prop :=
  ∀ (px py : Byte) (r c : Nat),
    (cellIndex px py r c).val % 64 = (px.toNat + c) % 64 ∧
    (cellIndex px py r c).val / 64 = (py.toNat + r + (px.toNat + c) / 64) % 32

/-! ### Keypad and timers -/

/-- Ex9E and ExA1 with a key number skip on the level of that key; with a value above 15 they raise KeyIndex and change nothing
but the latch (the spec's own decision D9). -/
def Obligations.KeySkips : Prop :=
  ∀ (x : Reg) (s : State),
    (∀ k : Fin 16, s.v[x].toNat = k.val →
      (∃ t, exec (.skp x) s = .next t ∧ Skips (s.keys[k] = true) s t) ∧
      (∃ t, exec (.sknp x) s = .next t ∧ Skips (s.keys[k] = false) s t)) ∧
    (15 < s.v[x].toNat →
      (∃ t, exec (.skp x) s = .next t ∧ FaultTaken .keyIndex s.v[x].toNat s t) ∧
      (∃ t, exec (.sknp x) s = .next t ∧ FaultTaken .keyIndex s.v[x].toNat s t))

/-- Fx0A with a key pressed writes the least pressed key and advances; with none pressed it is a complete step that changes
nothing. That it is the LEAST key is the spec's own decision D15 (assumption log 5). -/
def Obligations.WaitForKeyPolls : Prop :=
  ∀ (x : Reg) (s : State),
    (∀ k : Fin 16, s.keys[k] = true → (∀ j : Fin 16, j < k → s.keys[j] = false) →
      ∃ t, exec (.ldVxK x) s = .next t ∧ WritesOnly x (BitVec.ofNat 8 k.val) s t) ∧
    ((∀ k : Fin 16, s.keys[k] = false) → exec (.ldVxK x) s = .next s)

/-- R145, R146: Fx15 and Fx18 write the delay and the sound timer and nothing else. -/
def Obligations.TimersWritten : Prop :=
  ∀ (x : Reg) (s : State),
    (∃ t, exec (.ldDtVx x) s = .next t ∧ t.dt = s.v[x] ∧ t.pc = s.pc + 2 ∧ SameBut [.dt, .pc] s t) ∧
    (∃ t, exec (.ldStVx x) s = .next t ∧ t.st = s.v[x] ∧ t.pc = s.pc + 2 ∧ SameBut [.st, .pc] s t)

/-- R144: Fx07 copies the delay timer and leaves it. So, after an Fx15 and whatever the host did since (any operations but `POWER_ON`,
with `k` ticks among them and no other Fx15), it reads the value written minus `k`, floored at 0. -/
def Obligations.DelayTimerRead : Prop :=
  (∀ (x : Reg) (s : State), ∃ t, exec (.ldVxDt x) s = .next t ∧ WritesOnly x s.dt s t) ∧
  (∀ (x z : Reg) (k : Nat) (s s₁ u : State), exec (.ldDtVx z) s = .next s₁ → TicksSince .ldDtVx s₁ k u →
    ∃ t, exec (.ldVxDt x) u = .next t ∧ t.v[x].toNat = s.v[z].toNat - k)

/-- R165, R166: a tick takes each timer one down and never below 0, touches nothing else, and beeps exactly if it takes the sound
timer from 1 to 0. So, whatever else the host does, a sound timer at `v` beeps on the `v`-th tick and on no other until an Fx18 or
a `POWER_ON`. -/
def Obligations.TimersTick : Prop :=
  ∀ s : State,
    (∃ t, perform .tickTimers s = .next (.beep (decide (s.st.toNat = 1)), t) ∧
      t.dt.toNat = s.dt.toNat - 1 ∧ t.st.toNat = s.st.toNat - 1 ∧ SameBut [.dt, .st] s t) ∧
    ∀ (k : Nat) (u : State), TicksSince .ldStVx s k u →
      ∃ t, perform .tickTimers u = .next (.beep (decide (s.st.toNat = k + 1)), t)

/-! ### Host operations -/

/-- `POWER_ON` from any state leaves every element at its value of the reset table (that the latch clears too is the spec's own
decision D10, that it may be repeated D23); the model's own counter of free values goes on (assumption log 1). `State.reset` is
the state it leaves. -/
def Obligations.PowerOnValues : Prop :=
  ∀ s : State, ∃ t, perform .powerOn s = .next (.none, t) ∧
    (∀ r : Reg, t.v[r] = 0) ∧ t.i = 0 ∧ t.pc = 0x200 ∧ (∀ k : Fin 16, t.stack[k] = 0) ∧ t.sp = 0 ∧ t.dt = 0 ∧ t.st = 0 ∧
    (∀ k, cellAt t.fb k = false) ∧ (∀ k : Fin 16, t.keys[k] = false) ∧ t.drawFlag = false ∧ (∀ a, t.mem.read a = 0) ∧
    t.halted = false ∧ t.faultCode = .none ∧ t.faultPc = 0 ∧ t.faultInfo = 0 ∧ t.draws = s.draws ∧
    { t with draws := 0 } = State.reset

/-- R181: `INITIALIZE` writes the font set to addresses 0 to 79 and changes nothing else; doing it twice is doing it once. -/
def Obligations.InitializeWritesFont : Prop :=
  ∀ s : State, s.mem.wf = true → ∃ t, perform .loadFontSet s = .next (.none, t) ∧
    (∀ a (h : a < Config.font.length), t.mem.read a = Config.font[a]) ∧ Config.font.length = 80 ∧
    (∀ a, 80 ≤ a → t.mem.read a = s.mem.read a) ∧ t.mem.wf = true ∧ SameBut [.mem] s t ∧
    perform .loadFontSet t = .next (.none, t)

/-- `LOAD_PROGRAM` with more than 3584 bytes answers CapacityError and changes nothing; otherwise it answers ok, the bytes stand
at 0x200 upward, and nothing else has changed (70_reset_and_hazards.md section 2; that an accepted load changes nothing else is the
spec's own decision D26, assumption log 17). -/
def Obligations.LoadProgramCopiesOrRejects : Prop :=
  ∀ (bytes : List Byte) (s : State), s.mem.wf = true →
    (3584 < bytes.length → perform (.loadProgram bytes) s = .next (.capacityError, s)) ∧
    (bytes.length ≤ 3584 → ∃ t, perform (.loadProgram bytes) s = .next (.ok, t) ∧
      (∀ k (h : k < bytes.length), t.mem.read (0x200 + k) = bytes[k]) ∧
      (∀ a, a < 0x200 ∨ 0x200 + bytes.length ≤ a → t.mem.read a = s.mem.read a) ∧
      t.mem.wf = true ∧ SameBut [.mem] s t)

/-- `INITIALIZE` and `LOAD_PROGRAM` write disjoint ranges, so their order does not matter: the very same state. -/
def Obligations.FontAndProgramCommute : Prop :=
  ∀ (bytes : List Byte) (s : State), s.mem.wf = true →
    (loadProgram bytes (loadFontSet s)).2 = loadFontSet (loadProgram bytes s).2

/-- `SET_KEY` sets the level of its key and no other, `CLEAR_DRAW_FLAG` clears the draw flag; neither has an answer or touches anything
else (R23, R24; that they are operations of the host is the spec's own decision D1). -/
def Obligations.KeyAndDrawFlagOperations : Prop :=
  ∀ (s : State) (k : Fin 16) (b : Bool),
    (∃ t, perform (.setKey k b) s = .next (.none, t) ∧ t.keys[k] = b ∧
      (∀ j : Fin 16, j ≠ k → t.keys[j] = s.keys[j]) ∧ SameBut [.keys] s t) ∧
    (∃ t, perform .clearDrawFlag s = .next (.none, t) ∧ t.drawFlag = false ∧ SameBut [.drawFlag] s t)

/-- The boot sequence of R186 from any state: the font at 0 to 79, a program that fits at 0x200 upward, every other byte 0, and
everything but memory and the model's own counter of free values as at reset. A program that does not fit is answered CapacityError
and leaves the font alone. That `POWER_ON` may be issued from any state is the spec's own decision D23, that an accepted load is a plain
copy D26 (assumption log 17); that the counter goes on is the model's choice (assumption log 1). -/
def Obligations.BootLoadsFontAndProgram : Prop :=
  ∀ (bytes : List Byte) (s : State),
    ∃ t, SameBut [.mem, .draws] State.reset t ∧ t.draws = s.draws ∧ t.mem.wf = true ∧
      (∀ a (h : a < Config.font.length), t.mem.read a = Config.font[a]) ∧
      (∀ a, 80 ≤ a → a < 0x200 → t.mem.read a = 0) ∧
      ((bytes.length ≤ 3584 ∧ performAll (bootOps bytes) s = .next ([.none, .none, .ok], t) ∧
          (∀ k (h : k < bytes.length), t.mem.read (0x200 + k) = bytes[k]) ∧
          (∀ a, 0x200 + bytes.length ≤ a → t.mem.read a = 0)) ∨
        (3584 < bytes.length ∧ performAll (bootOps bytes) s = .next ([.none, .none, .capacityError], t) ∧
          (∀ a, 0x200 ≤ a → t.mem.read a = 0)))

/-- One frame of the driver (R192, whose cadence is the spec's own decision D20) is `IPF` steps and then one tick, for every `IPF`
and whatever the frame rate: an answer for each step, then the beep. -/
def Obligations.FrameIsStepsThenOneTick : Prop :=
  ∀ (d : Config.Driver) (s : State), ∃ (u t : State) (rs : List Response),
    Host.Core.run Sys2Proof.core d.ipf s = .next u ∧ rs.length = d.ipf ∧
    performAll (frameOps d) s = .next (rs ++ [.beep (decide (u.st.toNat = 1))], t) ∧
    t.dt.toNat = u.dt.toNat - 1 ∧ t.st.toNat = u.st.toNat - 1 ∧ SameBut [.dt, .st] u t

/-- Once a fault is latched no operation but `POWER_ON` clears it or changes the record (the spec's own decision D10). -/
def Obligations.OnlyPowerOnClearsFault : Prop :=
  ∀ (op : HostOp) (s t : State) (r : Response), s.halted = true → op ≠ .powerOn → perform op s = .next (r, t) →
    t.halted = true ∧ t.faultCode = s.faultCode ∧ t.faultPc = s.faultPc ∧ t.faultInfo = s.faultInfo

/-! ### Whole machine -/

/-- Faults are complete and precise: a step of a running machine faults exactly when the first failing check of R160's order says
so, with the code and info of R150's table, and then nothing but the latch has changed and `STEP` answers that code; when no check
fails it does not halt and `STEP` answers ok (R80; the mechanism is the spec's own decision D10). -/
def Obligations.FaultsAreCompleteAndPrecise : Prop :=
  ∀ s : State, s.halted = false → ∃ t, step s = .next t ∧
    match stepFault s with
    | none => t.halted = false ∧ perform .step s = .next (.ok, t)
    | some (code, info) => FaultTaken code info s t ∧ perform .step s = .next (.fault code, t)

/-- Which general registers an instruction may change: those of R11 and R12 (the latter derived there) and no other; in particular VF
only where R11 names it. -/
def Obligations.OnlyNamedRegistersChange : Prop :=
  ∀ (i : Instr) (s t : State) (r : Reg), exec i s = .next t → writesReg r i = false → t.v[r] = s.v[r]

/-- Which parts of the state an instruction may change: I only Annn, Fx1E, Fx29; the stack only 2nnn, 00EE; DT only Fx15, ST only
Fx18; the framebuffer and draw flag only 00E0, Dxyn; memory only Fx33, Fx55; the latch only the instructions that can fault; the
keypad none. -/
def Obligations.OnlyNamedPartsChange : Prop :=
  ∀ (i : Instr) (s t : State) (p : Part), exec i s = .next t → p ≠ .pc → p ∉ mayWrite i → p.same s t

/-- Memory changes only in the bytes an instruction stores to, the `storeCount` bytes from `I` (R45, derived there). -/
def Obligations.OnlyStoredBytesChange : Prop :=
  ∀ (i : Instr) (s t : State) (a : Nat), s.mem.wf = true → exec i s = .next t →
    (a < s.i.toNat ∨ s.i.toNat + storeCount i ≤ a) → t.mem.read a = s.mem.read a

/-- Only Ex9E, ExA1 and Fx0A depend on the keypad: with other key levels any other instruction does the same. -/
def Obligations.KeypadReachesOnlyKeyInstructions : Prop :=
  ∀ (i : Instr) (s t : State) (ks : Vector Bool 16), readsKeys i = false → exec i s = .next t →
    exec i { s with keys := ks } = .next { t with keys := ks }

/-- An instruction that consumes no free value does not depend on the free values: only Cxnn sees the random byte (and a MemBounds
whose address does not fit `fault_info`, assumption log 2). -/
def Obligations.FreeValuesReachOnlyTheirConsumers : Prop :=
  ∀ (i : Instr) (s t : State) (d : Nat), i.wellFormed = true → exec i s = .next t →
    (t.draws = s.draws → exec i { s with draws := d } = .next { t with draws := d }) ∧
    (t.draws ≠ s.draws → (∃ x nn, i = .rnd x nn) ∨ (t.faultCode = .memBounds ∧ 65535 < s.i.toNat + 15))

/-- The invariant of R32 holds at reset. -/
def Obligations.ResetMeetsInvariant : Prop := Inv State.reset

/-- Every step keeps the invariant of R32: canonical memory, `pc` at most 0x10FE, every valid stack entry at most 4094, one story in
the latch. -/
def Obligations.StepKeepsInvariant : Prop :=
  ∀ s t : State, Inv s → step s = .next t → Inv t

/-- Every state reachable from `POWER_ON` by the host's operations, in any order and number, meets the invariant of R32. -/
def Obligations.ReachableStatesMeetInvariant : Prop :=
  ∀ s : State, Reachable s → Inv s

/-- Every operation of the host, `STEP` among them, keeps the invariant of R32, from every state that meets it, reached or not. (That
the bounds of `pc` and of stack entries and the latch are what R32 says rests on the spec's own decisions D2, D4, D10; that the
operations may be issued at any time on D23 and D26.) -/
def Obligations.EveryOperationKeepsInvariant : Prop :=
  ∀ (op : HostOp) (s t : State) (r : Response), Inv s → perform op s = .next (r, t) → Inv t
end

