-- ==== Sys2Proof/Laws/Decode.lean ====
section
/-!
SUPPORT. The fields of the three encoding forms, and the two halves of an opcode (spec/30_encoding.md R61, R62).
-/

namespace Sys2Proof

theorem top_nnnForm (t : BitVec 4) (a : Addr) : fieldTop (nnnForm t a) = t := by
  apply BitVec.eq_of_getLsbD_eq
  intro i hi
  simp only [fieldTop, nnnForm, BitVec.getLsbD_extractLsb', BitVec.getLsbD_append]
  simp [hi]

theorem nnn_nnnForm (t : BitVec 4) (a : Addr) : fieldNNN (nnnForm t a) = a := by
  apply BitVec.eq_of_getLsbD_eq
  intro i hi
  simp only [fieldNNN, nnnForm, BitVec.getLsbD_extractLsb', BitVec.getLsbD_append]
  simp [hi]

theorem top_xnnForm (t : BitVec 4) (x : Reg) (nn : Byte) : fieldTop (xnnForm t x nn) = t := by
  apply BitVec.eq_of_getLsbD_eq
  intro i hi
  simp only [fieldTop, xnnForm, BitVec.getLsbD_extractLsb', BitVec.getLsbD_append]
  have h1 : ¬ 12 + i < 8 := by omega
  have h2 : ¬ 12 + i - 8 < 4 := by omega
  have h3 : 12 + i - 8 - 4 = i := by omega
  simp [hi, h1, h2, h3]

theorem x_xnnForm (t : BitVec 4) (x : Reg) (nn : Byte) : fieldX (xnnForm t x nn) = x := by
  have h : (xnnForm t x nn).extractLsb' 8 4 = regBits x := by
    apply BitVec.eq_of_getLsbD_eq
    intro i hi
    simp only [xnnForm, BitVec.getLsbD_extractLsb', BitVec.getLsbD_append]
    simp [hi]
  unfold fieldX
  rw [h]
  rfl

theorem nn_xnnForm (t : BitVec 4) (x : Reg) (nn : Byte) : fieldNN (xnnForm t x nn) = nn := by
  apply BitVec.eq_of_getLsbD_eq
  intro i hi
  simp only [fieldNN, xnnForm, BitVec.getLsbD_extractLsb', BitVec.getLsbD_append]
  simp [hi]

theorem top_xynForm (t : BitVec 4) (x y : Reg) (n : BitVec 4) : fieldTop (xynForm t x y n) = t := by
  apply BitVec.eq_of_getLsbD_eq
  intro i hi
  simp only [fieldTop, xynForm, BitVec.getLsbD_extractLsb', BitVec.getLsbD_append]
  have h0 : ¬ 12 + i < 4 := by omega
  have h1 : ¬ 12 + i - 4 < 4 := by omega
  have h2 : ¬ 12 + i - 4 - 4 < 4 := by omega
  have h3 : 12 + i - 4 - 4 - 4 = i := by omega
  simp [hi, h0, h1, h2, h3]

theorem x_xynForm (t : BitVec 4) (x y : Reg) (n : BitVec 4) : fieldX (xynForm t x y n) = x := by
  have h : (xynForm t x y n).extractLsb' 8 4 = regBits x := by
    apply BitVec.eq_of_getLsbD_eq
    intro i hi
    simp only [xynForm, BitVec.getLsbD_extractLsb', BitVec.getLsbD_append]
    have h0 : ¬ 8 + i < 4 := by omega
    have h1 : ¬ 8 + i - 4 < 4 := by omega
    have h2 : 8 + i - 4 - 4 = i := by omega
    simp [hi, h0, h1, h2]
  unfold fieldX
  rw [h]
  rfl

theorem y_xynForm (t : BitVec 4) (x y : Reg) (n : BitVec 4) : fieldY (xynForm t x y n) = y := by
  have h : (xynForm t x y n).extractLsb' 4 4 = regBits y := by
    apply BitVec.eq_of_getLsbD_eq
    intro i hi
    simp only [xynForm, BitVec.getLsbD_extractLsb', BitVec.getLsbD_append]
    simp [hi]
  unfold fieldY
  rw [h]
  rfl

theorem n_xynForm (t : BitVec 4) (x y : Reg) (n : BitVec 4) : fieldN (xynForm t x y n) = n := by
  apply BitVec.eq_of_getLsbD_eq
  intro i hi
  simp only [fieldN, xynForm, BitVec.getLsbD_extractLsb', BitVec.getLsbD_append]
  simp [hi]

theorem high_joinBytes (hi lo : Byte) : highByte (joinBytes hi lo) = hi := by
  apply BitVec.eq_of_getLsbD_eq
  intro i h
  simp only [highByte, joinBytes, BitVec.getLsbD_extractLsb', BitVec.getLsbD_append]
  simp [h]

theorem low_joinBytes (hi lo : Byte) : lowByte (joinBytes hi lo) = lo := by
  apply BitVec.eq_of_getLsbD_eq
  intro i h
  simp only [lowByte, joinBytes, BitVec.getLsbD_extractLsb', BitVec.getLsbD_append]
  simp [h]

/-- The two halves of a word, joined, are the word (R42). -/
theorem join_halves (op : Word) : joinBytes (highByte op) (lowByte op) = op := by
  apply BitVec.eq_of_getLsbD_eq
  intro i h
  simp only [joinBytes, highByte, lowByte, BitVec.getLsbD_append, BitVec.getLsbD_extractLsb']
  by_cases h8 : i < 8
  · simp [h8]
  · have h1 : i - 8 < 8 := by omega
    have h2 : 8 + (i - 8) = i := by omega
    simp [h8, h1, h2]

/-- The rows of the opcode map are pairwise disjoint (R64): two rows differ in a bit both of them fix. -/
theorem opcodeTable_disjoint :
    opcodeTable.Pairwise fun a b => a.pattern &&& (a.mask &&& b.mask) ≠ b.pattern &&& (a.mask &&& b.mask) := by
  decide

/-- Every instruction's row stands in the table (R65). -/
theorem row_mem (i : Instr) : i.row ∈ opcodeTable := by
  cases i <;> simp [Instr.row, opcodeTable, opcodeTableLow, opcodeTableHigh]

end Sys2Proof
end

