-- ==== Sys2Proof/Laws/Memory.lean ====
section
/-!
SUPPORT. The laws of memory: a read after a write, every operation keeps the canonical form, two canonical memories that
read alike are equal (spec/20_memory.md R40, R45, R51).
-/

namespace Sys2Proof.Machine

namespace Memory

@[simp] theorem read_nil (a : Nat) : Memory.read [] a = unlisted := rfl

theorem read_cons (k : Nat) (b : Byte) (m : Memory) (a : Nat) :
    Memory.read ((k, b) :: m) a = if k = a then b else Memory.read m a := rfl

theorem wfFrom_cons {lo k : Nat} {b : Byte} {m : Memory} :
    wfFrom lo ((k, b) :: m) = true ↔
      lo ≤ k ∧ k < Config.memBytes ∧ b ≠ unlisted ∧ wfFrom (k + 1) m = true := by
  simp [wfFrom, and_assoc]

theorem wfFrom_mono {m : Memory} {lo lo' : Nat} (h : lo' ≤ lo) (hm : wfFrom lo m = true) :
    wfFrom lo' m = true := by
  cases m with
  | nil => rfl
  | cons c rest =>
    obtain ⟨k, b⟩ := c
    rw [wfFrom_cons] at hm ⊢
    exact ⟨h.trans hm.1, hm.2⟩

theorem read_below {m : Memory} {lo a : Nat} (hm : wfFrom lo m = true) (h : a < lo) :
    m.read a = unlisted := by
  induction m generalizing lo with
  | nil => rfl
  | cons c rest ih =>
    obtain ⟨k, b⟩ := c
    rw [wfFrom_cons] at hm
    rw [read_cons, if_neg (by omega)]
    exact ih hm.2.2.2 (by omega)

theorem read_write {m : Memory} {lo : Nat} (hm : wfFrom lo m = true) (a : Nat) (b : Byte) (a' : Nat) :
    (m.write a b).read a' = if a' = a then b else m.read a' := by
  induction m generalizing lo with
  | nil =>
    by_cases hb : b = unlisted
    · simp [write, hb]
    · by_cases ha : a' = a
      · simp [write, hb, read_cons, ha]
      · simp [write, hb, read_cons, ha, Ne.symm ha]
  | cons c rest ih =>
    obtain ⟨k, c⟩ := c
    rw [wfFrom_cons] at hm
    obtain ⟨_, _, _, hr⟩ := hm
    have hk : a ≤ k → Memory.read rest a = unlisted := fun h => read_below hr (by omega)
    by_cases h1 : a < k
    · by_cases hb : b = unlisted
      · by_cases ha : a' = a
        · subst ha; simp [write, h1, hb, read_cons, hk h1.le, show k ≠ a' by omega]
        · simp [write, h1, hb, ha]
      · by_cases ha : a' = a
        · subst ha; simp [write, h1, hb, read_cons]
        · simp [write, h1, hb, ha, read_cons, Ne.symm ha]
    · by_cases h2 : a = k
      · subst h2
        by_cases hb : b = unlisted
        · by_cases ha : a' = a
          · subst ha; simp [write, hb, hk le_rfl]
          · simp [write, hb, ha, read_cons, Ne.symm ha]
        · by_cases ha : a' = a
          · subst ha; simp [write, hb, read_cons]
          · simp [write, hb, ha, read_cons, Ne.symm ha]
      · simp only [write, h1, h2, if_false, read_cons, ih hr]
        by_cases hk' : k = a'
        · rw [if_pos hk', if_pos hk', if_neg (by omega)]
        · simp [hk']

theorem wfFrom_write {m : Memory} {lo : Nat} (hm : wfFrom lo m = true) {a : Nat} (b : Byte) (hlo : lo ≤ a)
    (ha : a < Config.memBytes) : wfFrom lo (m.write a b) = true := by
  induction m generalizing lo with
  | nil =>
    by_cases hb : b = unlisted
    · simp [write, hb, wfFrom]
    · simp only [write, if_neg hb]
      exact wfFrom_cons.mpr ⟨hlo, ha, hb, rfl⟩
  | cons c rest ih =>
    obtain ⟨k, c⟩ := c
    have hm' := wfFrom_cons.mp hm
    obtain ⟨h1, h2, h3, h4⟩ := hm'
    by_cases hlt : a < k
    · by_cases hb : b = unlisted
      · simp only [write, hlt, hb, if_true, hm]
      · simp only [write, hlt, if_true, hb, if_false]
        exact wfFrom_cons.mpr ⟨hlo, ha, hb, wfFrom_cons.mpr ⟨by omega, h2, h3, h4⟩⟩
    · by_cases heq : a = k
      · subst heq
        by_cases hb : b = unlisted
        · simp only [write, lt_irrefl, if_false, hb, if_true]
          exact wfFrom_mono (by omega) h4
        · simp only [write, lt_irrefl, if_false, hb, if_true]
          exact wfFrom_cons.mpr ⟨hlo, ha, hb, h4⟩
      · simp only [write, hlt, heq, if_false]
        exact wfFrom_cons.mpr ⟨h1, h2, h3, ih h4 (by omega)⟩

/-- A write inside the memory keeps the canonical form. -/
theorem wf_write {m : Memory} (hm : m.wf = true) {a : Nat} (b : Byte) (ha : a < Config.memBytes) :
    (m.write a b).wf = true := wfFrom_write hm b (Nat.zero_le a) ha

/-- A read after a write to the same address gives the byte written. -/
theorem read_write_same {m : Memory} (hm : m.wf = true) (a : Nat) (b : Byte) : (m.write a b).read a = b := by
  rw [read_write hm, if_pos rfl]

/-- A write leaves every other address alone. -/
theorem read_write_other {m : Memory} (hm : m.wf = true) {a a' : Nat} (b : Byte) (h : a' ≠ a) :
    (m.write a b).read a' = m.read a' := by
  rw [read_write hm, if_neg h]

/-- A store inside the memory keeps the canonical form. -/
theorem wf_store {bs : List Byte} {m : Memory} {a : Nat} (hm : m.wf = true)
    (h : a + bs.length ≤ Config.memBytes) : (m.store a bs).wf = true := by
  induction bs generalizing m a with
  | nil => exact hm
  | cons b bs ih =>
    simp only [List.length_cons] at h
    exact ih (wf_write hm b (by omega)) (by omega)

/-- What a store leaves at every address. -/
theorem read_store {bs : List Byte} {m : Memory} {a : Nat} (hm : m.wf = true)
    (h : a + bs.length ≤ Config.memBytes) (a' : Nat) :
    (m.store a bs).read a' = if h : a ≤ a' ∧ a' - a < bs.length then bs[a' - a]'h.2 else m.read a' := by
  induction bs generalizing m a with
  | nil => simp [store]
  | cons b bs ih =>
    simp only [List.length_cons] at h
    rw [store, ih (wf_write hm b (by omega)) (by omega), read_write hm]
    by_cases h1 : a' = a
    · subst h1
      simp
    · by_cases h2 : a + 1 ≤ a' ∧ a' - (a + 1) < bs.length
      · have h3 : a ≤ a' ∧ a' - a < (b :: bs).length := ⟨by omega, by simp only [List.length_cons]; omega⟩
        rw [dif_pos h2, dif_pos h3]
        have h4 : a' - a = a' - (a + 1) + 1 := by omega
        simp only [h4, List.getElem_cons_succ]
      · rw [dif_neg h2, if_neg h1, dif_neg]
        simp only [List.length_cons]
        omega

/-- Outside the stored bytes a store changes nothing. -/
theorem read_store_outside {bs : List Byte} {m : Memory} {a : Nat} (hm : m.wf = true)
    (h : a + bs.length ≤ Config.memBytes) {a' : Nat} (ho : a' < a ∨ a + bs.length ≤ a') :
    (m.store a bs).read a' = m.read a' := by
  rw [read_store hm h, dif_neg (by omega)]

@[simp] theorem length_load (m : Memory) (a n : Nat) : (m.load a n).length = n := by
  induction n generalizing a with
  | zero => rfl
  | succ n ih => simp [load, ih]

/-- The `k`-th byte of a load. -/
theorem getElem_load (m : Memory) (a n k : Nat) (h : k < (m.load a n).length) :
    (m.load a n)[k] = m.read (a + k) := by
  induction n generalizing a k with
  | zero => simp [load] at h
  | succ n ih =>
    cases k with
    | zero => rfl
    | succ k =>
      simp only [load, List.getElem_cons_succ]
      rw [ih]
      congr 1
      omega

theorem eq_of_read_eq_from {m m' : Memory} {lo : Nat} (hm : wfFrom lo m = true) (hm' : wfFrom lo m' = true)
    (h : ∀ a, m.read a = m'.read a) : m = m' := by
  induction m generalizing m' lo with
  | nil =>
    cases m' with
    | nil => rfl
    | cons c rest =>
      obtain ⟨k, b⟩ := c
      have h3 := (wfFrom_cons.mp hm').2.2.1
      have := h k
      simp [read_cons] at this
      exact absurd this.symm h3
  | cons c rest ih =>
    obtain ⟨k, b⟩ := c
    have ⟨h1, _, h3, h4⟩ := wfFrom_cons.mp hm
    cases m' with
    | nil =>
      have := h k
      simp [read_cons] at this
      exact absurd this h3
    | cons c' rest' =>
      obtain ⟨k', b'⟩ := c'
      have ⟨h1', _, h3', h4'⟩ := wfFrom_cons.mp hm'
      have hkk : k = k' := by
        rcases Nat.lt_trichotomy k k' with hlt | heq | hgt
        · have := h k
          rw [read_cons, if_pos rfl, read_cons, if_neg (by omega), read_below h4' (by omega)] at this
          exact absurd this h3
        · exact heq
        · have := h k'
          rw [read_cons, if_neg (by omega), read_cons, if_pos rfl, read_below h4 (by omega)] at this
          exact absurd this.symm h3'
      subst hkk
      have hb : b = b' := by
        have := h k
        simpa [read_cons] using this
      subst hb
      have hrest : rest = rest' := by
        refine ih h4 h4' fun a => ?_
        by_cases ha : k = a
        · rw [read_below h4 (by omega), read_below h4' (by omega)]
        · have := h a
          simpa [read_cons, ha] using this
      rw [hrest]

/-- Canonical memories that read alike are equal. -/
theorem eq_of_read_eq {m m' : Memory} (hm : m.wf = true) (hm' : m'.wf = true) (h : ∀ a, m.read a = m'.read a) :
    m = m' := eq_of_read_eq_from hm hm' h

end Memory

end Sys2Proof.Machine
end

