-- ==== Sys2Proof/Laws/State.lean ====
section
/-!
SUPPORT. One lemma per field per update: what each named operation leaves in each field of State. Later proofs cite these
and unfold no record update.
-/

namespace Sys2Proof.Machine

/-! ### advance -/

@[simp] theorem advance_v (s : State) : (advance s).v = s.v := rfl
@[simp] theorem advance_i (s : State) : (advance s).i = s.i := rfl
@[simp] theorem advance_pc (s : State) : (advance s).pc = s.pc + 2 := rfl
@[simp] theorem advance_stack (s : State) : (advance s).stack = s.stack := rfl
@[simp] theorem advance_sp (s : State) : (advance s).sp = s.sp := rfl
@[simp] theorem advance_dt (s : State) : (advance s).dt = s.dt := rfl
@[simp] theorem advance_st (s : State) : (advance s).st = s.st := rfl
@[simp] theorem advance_fb (s : State) : (advance s).fb = s.fb := rfl
@[simp] theorem advance_keys (s : State) : (advance s).keys = s.keys := rfl
@[simp] theorem advance_drawFlag (s : State) : (advance s).drawFlag = s.drawFlag := rfl
@[simp] theorem advance_mem (s : State) : (advance s).mem = s.mem := rfl
@[simp] theorem advance_halted (s : State) : (advance s).halted = s.halted := rfl
@[simp] theorem advance_faultCode (s : State) : (advance s).faultCode = s.faultCode := rfl
@[simp] theorem advance_faultPc (s : State) : (advance s).faultPc = s.faultPc := rfl
@[simp] theorem advance_faultInfo (s : State) : (advance s).faultInfo = s.faultInfo := rfl
@[simp] theorem advance_draws (s : State) : (advance s).draws = s.draws := rfl

/-! ### skipIf -/

@[simp] theorem skipIf_v (c : Bool) (s : State) : (skipIf c s).v = s.v := rfl
@[simp] theorem skipIf_i (c : Bool) (s : State) : (skipIf c s).i = s.i := rfl
@[simp] theorem skipIf_pc (c : Bool) (s : State) : (skipIf c s).pc = s.pc + (if c then 4 else 2) := rfl
@[simp] theorem skipIf_stack (c : Bool) (s : State) : (skipIf c s).stack = s.stack := rfl
@[simp] theorem skipIf_sp (c : Bool) (s : State) : (skipIf c s).sp = s.sp := rfl
@[simp] theorem skipIf_dt (c : Bool) (s : State) : (skipIf c s).dt = s.dt := rfl
@[simp] theorem skipIf_st (c : Bool) (s : State) : (skipIf c s).st = s.st := rfl
@[simp] theorem skipIf_fb (c : Bool) (s : State) : (skipIf c s).fb = s.fb := rfl
@[simp] theorem skipIf_keys (c : Bool) (s : State) : (skipIf c s).keys = s.keys := rfl
@[simp] theorem skipIf_drawFlag (c : Bool) (s : State) : (skipIf c s).drawFlag = s.drawFlag := rfl
@[simp] theorem skipIf_mem (c : Bool) (s : State) : (skipIf c s).mem = s.mem := rfl
@[simp] theorem skipIf_halted (c : Bool) (s : State) : (skipIf c s).halted = s.halted := rfl
@[simp] theorem skipIf_faultCode (c : Bool) (s : State) : (skipIf c s).faultCode = s.faultCode := rfl
@[simp] theorem skipIf_faultPc (c : Bool) (s : State) : (skipIf c s).faultPc = s.faultPc := rfl
@[simp] theorem skipIf_faultInfo (c : Bool) (s : State) : (skipIf c s).faultInfo = s.faultInfo := rfl
@[simp] theorem skipIf_draws (c : Bool) (s : State) : (skipIf c s).draws = s.draws := rfl

/-! ### jumpTo -/

@[simp] theorem jumpTo_v (w : Word) (s : State) : (jumpTo w s).v = s.v := rfl
@[simp] theorem jumpTo_i (w : Word) (s : State) : (jumpTo w s).i = s.i := rfl
@[simp] theorem jumpTo_pc (w : Word) (s : State) : (jumpTo w s).pc = w := rfl
@[simp] theorem jumpTo_stack (w : Word) (s : State) : (jumpTo w s).stack = s.stack := rfl
@[simp] theorem jumpTo_sp (w : Word) (s : State) : (jumpTo w s).sp = s.sp := rfl
@[simp] theorem jumpTo_dt (w : Word) (s : State) : (jumpTo w s).dt = s.dt := rfl
@[simp] theorem jumpTo_st (w : Word) (s : State) : (jumpTo w s).st = s.st := rfl
@[simp] theorem jumpTo_fb (w : Word) (s : State) : (jumpTo w s).fb = s.fb := rfl
@[simp] theorem jumpTo_keys (w : Word) (s : State) : (jumpTo w s).keys = s.keys := rfl
@[simp] theorem jumpTo_drawFlag (w : Word) (s : State) : (jumpTo w s).drawFlag = s.drawFlag := rfl
@[simp] theorem jumpTo_mem (w : Word) (s : State) : (jumpTo w s).mem = s.mem := rfl
@[simp] theorem jumpTo_halted (w : Word) (s : State) : (jumpTo w s).halted = s.halted := rfl
@[simp] theorem jumpTo_faultCode (w : Word) (s : State) : (jumpTo w s).faultCode = s.faultCode := rfl
@[simp] theorem jumpTo_faultPc (w : Word) (s : State) : (jumpTo w s).faultPc = s.faultPc := rfl
@[simp] theorem jumpTo_faultInfo (w : Word) (s : State) : (jumpTo w s).faultInfo = s.faultInfo := rfl
@[simp] theorem jumpTo_draws (w : Word) (s : State) : (jumpTo w s).draws = s.draws := rfl

/-! ### writeV -/

@[simp] theorem writeV_v (s : State) (x : Reg) (b : Byte) : (writeV s x b).v = s.v.set x b := rfl
@[simp] theorem writeV_i (s : State) (x : Reg) (b : Byte) : (writeV s x b).i = s.i := rfl
@[simp] theorem writeV_pc (s : State) (x : Reg) (b : Byte) : (writeV s x b).pc = s.pc := rfl
@[simp] theorem writeV_stack (s : State) (x : Reg) (b : Byte) : (writeV s x b).stack = s.stack := rfl
@[simp] theorem writeV_sp (s : State) (x : Reg) (b : Byte) : (writeV s x b).sp = s.sp := rfl
@[simp] theorem writeV_dt (s : State) (x : Reg) (b : Byte) : (writeV s x b).dt = s.dt := rfl
@[simp] theorem writeV_st (s : State) (x : Reg) (b : Byte) : (writeV s x b).st = s.st := rfl
@[simp] theorem writeV_fb (s : State) (x : Reg) (b : Byte) : (writeV s x b).fb = s.fb := rfl
@[simp] theorem writeV_keys (s : State) (x : Reg) (b : Byte) : (writeV s x b).keys = s.keys := rfl
@[simp] theorem writeV_drawFlag (s : State) (x : Reg) (b : Byte) : (writeV s x b).drawFlag = s.drawFlag := rfl
@[simp] theorem writeV_mem (s : State) (x : Reg) (b : Byte) : (writeV s x b).mem = s.mem := rfl
@[simp] theorem writeV_halted (s : State) (x : Reg) (b : Byte) : (writeV s x b).halted = s.halted := rfl
@[simp] theorem writeV_faultCode (s : State) (x : Reg) (b : Byte) : (writeV s x b).faultCode = s.faultCode := rfl
@[simp] theorem writeV_faultPc (s : State) (x : Reg) (b : Byte) : (writeV s x b).faultPc = s.faultPc := rfl
@[simp] theorem writeV_faultInfo (s : State) (x : Reg) (b : Byte) : (writeV s x b).faultInfo = s.faultInfo := rfl
@[simp] theorem writeV_draws (s : State) (x : Reg) (b : Byte) : (writeV s x b).draws = s.draws := rfl

/-! ### writeFlag -/

@[simp] theorem writeFlag_v (s : State) (b : Bool) : (writeFlag s b).v = s.v.set flagReg (flagByte b) := rfl
@[simp] theorem writeFlag_i (s : State) (b : Bool) : (writeFlag s b).i = s.i := rfl
@[simp] theorem writeFlag_pc (s : State) (b : Bool) : (writeFlag s b).pc = s.pc := rfl
@[simp] theorem writeFlag_stack (s : State) (b : Bool) : (writeFlag s b).stack = s.stack := rfl
@[simp] theorem writeFlag_sp (s : State) (b : Bool) : (writeFlag s b).sp = s.sp := rfl
@[simp] theorem writeFlag_dt (s : State) (b : Bool) : (writeFlag s b).dt = s.dt := rfl
@[simp] theorem writeFlag_st (s : State) (b : Bool) : (writeFlag s b).st = s.st := rfl
@[simp] theorem writeFlag_fb (s : State) (b : Bool) : (writeFlag s b).fb = s.fb := rfl
@[simp] theorem writeFlag_keys (s : State) (b : Bool) : (writeFlag s b).keys = s.keys := rfl
@[simp] theorem writeFlag_drawFlag (s : State) (b : Bool) : (writeFlag s b).drawFlag = s.drawFlag := rfl
@[simp] theorem writeFlag_mem (s : State) (b : Bool) : (writeFlag s b).mem = s.mem := rfl
@[simp] theorem writeFlag_halted (s : State) (b : Bool) : (writeFlag s b).halted = s.halted := rfl
@[simp] theorem writeFlag_faultCode (s : State) (b : Bool) : (writeFlag s b).faultCode = s.faultCode := rfl
@[simp] theorem writeFlag_faultPc (s : State) (b : Bool) : (writeFlag s b).faultPc = s.faultPc := rfl
@[simp] theorem writeFlag_faultInfo (s : State) (b : Bool) : (writeFlag s b).faultInfo = s.faultInfo := rfl
@[simp] theorem writeFlag_draws (s : State) (b : Bool) : (writeFlag s b).draws = s.draws := rfl

/-! ### writeIndex -/

@[simp] theorem writeIndex_v (w : Word) (s : State) : (writeIndex w s).v = s.v := rfl
@[simp] theorem writeIndex_i (w : Word) (s : State) : (writeIndex w s).i = w := rfl
@[simp] theorem writeIndex_pc (w : Word) (s : State) : (writeIndex w s).pc = s.pc := rfl
@[simp] theorem writeIndex_stack (w : Word) (s : State) : (writeIndex w s).stack = s.stack := rfl
@[simp] theorem writeIndex_sp (w : Word) (s : State) : (writeIndex w s).sp = s.sp := rfl
@[simp] theorem writeIndex_dt (w : Word) (s : State) : (writeIndex w s).dt = s.dt := rfl
@[simp] theorem writeIndex_st (w : Word) (s : State) : (writeIndex w s).st = s.st := rfl
@[simp] theorem writeIndex_fb (w : Word) (s : State) : (writeIndex w s).fb = s.fb := rfl
@[simp] theorem writeIndex_keys (w : Word) (s : State) : (writeIndex w s).keys = s.keys := rfl
@[simp] theorem writeIndex_drawFlag (w : Word) (s : State) : (writeIndex w s).drawFlag = s.drawFlag := rfl
@[simp] theorem writeIndex_mem (w : Word) (s : State) : (writeIndex w s).mem = s.mem := rfl
@[simp] theorem writeIndex_halted (w : Word) (s : State) : (writeIndex w s).halted = s.halted := rfl
@[simp] theorem writeIndex_faultCode (w : Word) (s : State) : (writeIndex w s).faultCode = s.faultCode := rfl
@[simp] theorem writeIndex_faultPc (w : Word) (s : State) : (writeIndex w s).faultPc = s.faultPc := rfl
@[simp] theorem writeIndex_faultInfo (w : Word) (s : State) : (writeIndex w s).faultInfo = s.faultInfo := rfl
@[simp] theorem writeIndex_draws (w : Word) (s : State) : (writeIndex w s).draws = s.draws := rfl

/-! ### storeAtIndex -/

@[simp] theorem storeAtIndex_v (bs : List Byte) (s : State) : (storeAtIndex bs s).v = s.v := rfl
@[simp] theorem storeAtIndex_i (bs : List Byte) (s : State) : (storeAtIndex bs s).i = s.i := rfl
@[simp] theorem storeAtIndex_pc (bs : List Byte) (s : State) : (storeAtIndex bs s).pc = s.pc := rfl
@[simp] theorem storeAtIndex_stack (bs : List Byte) (s : State) : (storeAtIndex bs s).stack = s.stack := rfl
@[simp] theorem storeAtIndex_sp (bs : List Byte) (s : State) : (storeAtIndex bs s).sp = s.sp := rfl
@[simp] theorem storeAtIndex_dt (bs : List Byte) (s : State) : (storeAtIndex bs s).dt = s.dt := rfl
@[simp] theorem storeAtIndex_st (bs : List Byte) (s : State) : (storeAtIndex bs s).st = s.st := rfl
@[simp] theorem storeAtIndex_fb (bs : List Byte) (s : State) : (storeAtIndex bs s).fb = s.fb := rfl
@[simp] theorem storeAtIndex_keys (bs : List Byte) (s : State) : (storeAtIndex bs s).keys = s.keys := rfl
@[simp] theorem storeAtIndex_drawFlag (bs : List Byte) (s : State) : (storeAtIndex bs s).drawFlag = s.drawFlag := rfl
@[simp] theorem storeAtIndex_mem (bs : List Byte) (s : State) : (storeAtIndex bs s).mem = s.mem.store s.i.toNat bs := rfl
@[simp] theorem storeAtIndex_halted (bs : List Byte) (s : State) : (storeAtIndex bs s).halted = s.halted := rfl
@[simp] theorem storeAtIndex_faultCode (bs : List Byte) (s : State) : (storeAtIndex bs s).faultCode = s.faultCode := rfl
@[simp] theorem storeAtIndex_faultPc (bs : List Byte) (s : State) : (storeAtIndex bs s).faultPc = s.faultPc := rfl
@[simp] theorem storeAtIndex_faultInfo (bs : List Byte) (s : State) : (storeAtIndex bs s).faultInfo = s.faultInfo := rfl
@[simp] theorem storeAtIndex_draws (bs : List Byte) (s : State) : (storeAtIndex bs s).draws = s.draws := rfl

/-! ### loadAtIndex -/

@[simp] theorem loadAtIndex_v (x : Reg) (s : State) : (loadAtIndex x s).v = loadedRegisters x s.mem s.i.toNat s.v := rfl
@[simp] theorem loadAtIndex_i (x : Reg) (s : State) : (loadAtIndex x s).i = s.i := rfl
@[simp] theorem loadAtIndex_pc (x : Reg) (s : State) : (loadAtIndex x s).pc = s.pc := rfl
@[simp] theorem loadAtIndex_stack (x : Reg) (s : State) : (loadAtIndex x s).stack = s.stack := rfl
@[simp] theorem loadAtIndex_sp (x : Reg) (s : State) : (loadAtIndex x s).sp = s.sp := rfl
@[simp] theorem loadAtIndex_dt (x : Reg) (s : State) : (loadAtIndex x s).dt = s.dt := rfl
@[simp] theorem loadAtIndex_st (x : Reg) (s : State) : (loadAtIndex x s).st = s.st := rfl
@[simp] theorem loadAtIndex_fb (x : Reg) (s : State) : (loadAtIndex x s).fb = s.fb := rfl
@[simp] theorem loadAtIndex_keys (x : Reg) (s : State) : (loadAtIndex x s).keys = s.keys := rfl
@[simp] theorem loadAtIndex_drawFlag (x : Reg) (s : State) : (loadAtIndex x s).drawFlag = s.drawFlag := rfl
@[simp] theorem loadAtIndex_mem (x : Reg) (s : State) : (loadAtIndex x s).mem = s.mem := rfl
@[simp] theorem loadAtIndex_halted (x : Reg) (s : State) : (loadAtIndex x s).halted = s.halted := rfl
@[simp] theorem loadAtIndex_faultCode (x : Reg) (s : State) : (loadAtIndex x s).faultCode = s.faultCode := rfl
@[simp] theorem loadAtIndex_faultPc (x : Reg) (s : State) : (loadAtIndex x s).faultPc = s.faultPc := rfl
@[simp] theorem loadAtIndex_faultInfo (x : Reg) (s : State) : (loadAtIndex x s).faultInfo = s.faultInfo := rfl
@[simp] theorem loadAtIndex_draws (x : Reg) (s : State) : (loadAtIndex x s).draws = s.draws := rfl

/-! ### consumeDraw -/

@[simp] theorem consumeDraw_v (s : State) : (consumeDraw s).v = s.v := rfl
@[simp] theorem consumeDraw_i (s : State) : (consumeDraw s).i = s.i := rfl
@[simp] theorem consumeDraw_pc (s : State) : (consumeDraw s).pc = s.pc := rfl
@[simp] theorem consumeDraw_stack (s : State) : (consumeDraw s).stack = s.stack := rfl
@[simp] theorem consumeDraw_sp (s : State) : (consumeDraw s).sp = s.sp := rfl
@[simp] theorem consumeDraw_dt (s : State) : (consumeDraw s).dt = s.dt := rfl
@[simp] theorem consumeDraw_st (s : State) : (consumeDraw s).st = s.st := rfl
@[simp] theorem consumeDraw_fb (s : State) : (consumeDraw s).fb = s.fb := rfl
@[simp] theorem consumeDraw_keys (s : State) : (consumeDraw s).keys = s.keys := rfl
@[simp] theorem consumeDraw_drawFlag (s : State) : (consumeDraw s).drawFlag = s.drawFlag := rfl
@[simp] theorem consumeDraw_mem (s : State) : (consumeDraw s).mem = s.mem := rfl
@[simp] theorem consumeDraw_halted (s : State) : (consumeDraw s).halted = s.halted := rfl
@[simp] theorem consumeDraw_faultCode (s : State) : (consumeDraw s).faultCode = s.faultCode := rfl
@[simp] theorem consumeDraw_faultPc (s : State) : (consumeDraw s).faultPc = s.faultPc := rfl
@[simp] theorem consumeDraw_faultInfo (s : State) : (consumeDraw s).faultInfo = s.faultInfo := rfl
@[simp] theorem consumeDraw_draws (s : State) : (consumeDraw s).draws = s.draws + 1 := rfl

/-! ### raise -/

@[simp] theorem raise_v (c : FaultCode) (n : Nat) (s : State) : (raise c n s).v = s.v := rfl
@[simp] theorem raise_i (c : FaultCode) (n : Nat) (s : State) : (raise c n s).i = s.i := rfl
@[simp] theorem raise_pc (c : FaultCode) (n : Nat) (s : State) : (raise c n s).pc = s.pc := rfl
@[simp] theorem raise_stack (c : FaultCode) (n : Nat) (s : State) : (raise c n s).stack = s.stack := rfl
@[simp] theorem raise_sp (c : FaultCode) (n : Nat) (s : State) : (raise c n s).sp = s.sp := rfl
@[simp] theorem raise_dt (c : FaultCode) (n : Nat) (s : State) : (raise c n s).dt = s.dt := rfl
@[simp] theorem raise_st (c : FaultCode) (n : Nat) (s : State) : (raise c n s).st = s.st := rfl
@[simp] theorem raise_fb (c : FaultCode) (n : Nat) (s : State) : (raise c n s).fb = s.fb := rfl
@[simp] theorem raise_keys (c : FaultCode) (n : Nat) (s : State) : (raise c n s).keys = s.keys := rfl
@[simp] theorem raise_drawFlag (c : FaultCode) (n : Nat) (s : State) : (raise c n s).drawFlag = s.drawFlag := rfl
@[simp] theorem raise_mem (c : FaultCode) (n : Nat) (s : State) : (raise c n s).mem = s.mem := rfl
@[simp] theorem raise_halted (c : FaultCode) (n : Nat) (s : State) : (raise c n s).halted = true := rfl
@[simp] theorem raise_faultCode (c : FaultCode) (n : Nat) (s : State) : (raise c n s).faultCode = c := rfl
@[simp] theorem raise_faultPc (c : FaultCode) (n : Nat) (s : State) : (raise c n s).faultPc = s.pc := rfl
@[simp] theorem raise_faultInfo (c : FaultCode) (n : Nat) (s : State) : (raise c n s).faultInfo = if infoFits n then BitVec.ofNat 16 n else Config.freeInfo s.draws := rfl
@[simp] theorem raise_draws (c : FaultCode) (n : Nat) (s : State) : (raise c n s).draws = if infoFits n then s.draws else s.draws + 1 := rfl

/-! ### drawSprite -/

@[simp] theorem drawSprite_v (px py : Byte) (rows : List Byte) (s : State) : (drawSprite px py rows s).v = s.v.set flagReg (flagByte (plotAll s.fb (spriteCells px py 0 rows)).hit) := rfl
@[simp] theorem drawSprite_i (px py : Byte) (rows : List Byte) (s : State) : (drawSprite px py rows s).i = s.i := rfl
@[simp] theorem drawSprite_pc (px py : Byte) (rows : List Byte) (s : State) : (drawSprite px py rows s).pc = s.pc := rfl
@[simp] theorem drawSprite_stack (px py : Byte) (rows : List Byte) (s : State) : (drawSprite px py rows s).stack = s.stack := rfl
@[simp] theorem drawSprite_sp (px py : Byte) (rows : List Byte) (s : State) : (drawSprite px py rows s).sp = s.sp := rfl
@[simp] theorem drawSprite_dt (px py : Byte) (rows : List Byte) (s : State) : (drawSprite px py rows s).dt = s.dt := rfl
@[simp] theorem drawSprite_st (px py : Byte) (rows : List Byte) (s : State) : (drawSprite px py rows s).st = s.st := rfl
@[simp] theorem drawSprite_fb (px py : Byte) (rows : List Byte) (s : State) : (drawSprite px py rows s).fb = (plotAll s.fb (spriteCells px py 0 rows)).fb := rfl
@[simp] theorem drawSprite_keys (px py : Byte) (rows : List Byte) (s : State) : (drawSprite px py rows s).keys = s.keys := rfl
@[simp] theorem drawSprite_drawFlag (px py : Byte) (rows : List Byte) (s : State) : (drawSprite px py rows s).drawFlag = true := rfl
@[simp] theorem drawSprite_mem (px py : Byte) (rows : List Byte) (s : State) : (drawSprite px py rows s).mem = s.mem := rfl
@[simp] theorem drawSprite_halted (px py : Byte) (rows : List Byte) (s : State) : (drawSprite px py rows s).halted = s.halted := rfl
@[simp] theorem drawSprite_faultCode (px py : Byte) (rows : List Byte) (s : State) : (drawSprite px py rows s).faultCode = s.faultCode := rfl
@[simp] theorem drawSprite_faultPc (px py : Byte) (rows : List Byte) (s : State) : (drawSprite px py rows s).faultPc = s.faultPc := rfl
@[simp] theorem drawSprite_faultInfo (px py : Byte) (rows : List Byte) (s : State) : (drawSprite px py rows s).faultInfo = s.faultInfo := rfl
@[simp] theorem drawSprite_draws (px py : Byte) (rows : List Byte) (s : State) : (drawSprite px py rows s).draws = s.draws := rfl

/-! ### loadFont -/

@[simp] theorem loadFont_v (font : List Byte) (s : State) : (loadFont font s).v = s.v := rfl
@[simp] theorem loadFont_i (font : List Byte) (s : State) : (loadFont font s).i = s.i := rfl
@[simp] theorem loadFont_pc (font : List Byte) (s : State) : (loadFont font s).pc = s.pc := rfl
@[simp] theorem loadFont_stack (font : List Byte) (s : State) : (loadFont font s).stack = s.stack := rfl
@[simp] theorem loadFont_sp (font : List Byte) (s : State) : (loadFont font s).sp = s.sp := rfl
@[simp] theorem loadFont_dt (font : List Byte) (s : State) : (loadFont font s).dt = s.dt := rfl
@[simp] theorem loadFont_st (font : List Byte) (s : State) : (loadFont font s).st = s.st := rfl
@[simp] theorem loadFont_fb (font : List Byte) (s : State) : (loadFont font s).fb = s.fb := rfl
@[simp] theorem loadFont_keys (font : List Byte) (s : State) : (loadFont font s).keys = s.keys := rfl
@[simp] theorem loadFont_drawFlag (font : List Byte) (s : State) : (loadFont font s).drawFlag = s.drawFlag := rfl
@[simp] theorem loadFont_mem (font : List Byte) (s : State) : (loadFont font s).mem = s.mem.store 0 font := rfl
@[simp] theorem loadFont_halted (font : List Byte) (s : State) : (loadFont font s).halted = s.halted := rfl
@[simp] theorem loadFont_faultCode (font : List Byte) (s : State) : (loadFont font s).faultCode = s.faultCode := rfl
@[simp] theorem loadFont_faultPc (font : List Byte) (s : State) : (loadFont font s).faultPc = s.faultPc := rfl
@[simp] theorem loadFont_faultInfo (font : List Byte) (s : State) : (loadFont font s).faultInfo = s.faultInfo := rfl
@[simp] theorem loadFont_draws (font : List Byte) (s : State) : (loadFont font s).draws = s.draws := rfl

/-! ### loadFontSet -/

@[simp] theorem loadFontSet_v (s : State) : (loadFontSet s).v = s.v := loadFont_v Config.font s
@[simp] theorem loadFontSet_i (s : State) : (loadFontSet s).i = s.i := loadFont_i Config.font s
@[simp] theorem loadFontSet_pc (s : State) : (loadFontSet s).pc = s.pc := loadFont_pc Config.font s
@[simp] theorem loadFontSet_stack (s : State) : (loadFontSet s).stack = s.stack := loadFont_stack Config.font s
@[simp] theorem loadFontSet_sp (s : State) : (loadFontSet s).sp = s.sp := loadFont_sp Config.font s
@[simp] theorem loadFontSet_dt (s : State) : (loadFontSet s).dt = s.dt := loadFont_dt Config.font s
@[simp] theorem loadFontSet_st (s : State) : (loadFontSet s).st = s.st := loadFont_st Config.font s
@[simp] theorem loadFontSet_fb (s : State) : (loadFontSet s).fb = s.fb := loadFont_fb Config.font s
@[simp] theorem loadFontSet_keys (s : State) : (loadFontSet s).keys = s.keys := loadFont_keys Config.font s
@[simp] theorem loadFontSet_drawFlag (s : State) : (loadFontSet s).drawFlag = s.drawFlag := loadFont_drawFlag Config.font s
@[simp] theorem loadFontSet_mem (s : State) : (loadFontSet s).mem = s.mem.store 0 Config.font := loadFont_mem Config.font s
@[simp] theorem loadFontSet_halted (s : State) : (loadFontSet s).halted = s.halted := loadFont_halted Config.font s
@[simp] theorem loadFontSet_faultCode (s : State) : (loadFontSet s).faultCode = s.faultCode := loadFont_faultCode Config.font s
@[simp] theorem loadFontSet_faultPc (s : State) : (loadFontSet s).faultPc = s.faultPc := loadFont_faultPc Config.font s
@[simp] theorem loadFontSet_faultInfo (s : State) : (loadFontSet s).faultInfo = s.faultInfo := loadFont_faultInfo Config.font s
@[simp] theorem loadFontSet_draws (s : State) : (loadFontSet s).draws = s.draws := loadFont_draws Config.font s

/-! ### setKey -/

@[simp] theorem setKey_v (k : Fin 16) (b : Bool) (s : State) : (setKey k b s).v = s.v := rfl
@[simp] theorem setKey_i (k : Fin 16) (b : Bool) (s : State) : (setKey k b s).i = s.i := rfl
@[simp] theorem setKey_pc (k : Fin 16) (b : Bool) (s : State) : (setKey k b s).pc = s.pc := rfl
@[simp] theorem setKey_stack (k : Fin 16) (b : Bool) (s : State) : (setKey k b s).stack = s.stack := rfl
@[simp] theorem setKey_sp (k : Fin 16) (b : Bool) (s : State) : (setKey k b s).sp = s.sp := rfl
@[simp] theorem setKey_dt (k : Fin 16) (b : Bool) (s : State) : (setKey k b s).dt = s.dt := rfl
@[simp] theorem setKey_st (k : Fin 16) (b : Bool) (s : State) : (setKey k b s).st = s.st := rfl
@[simp] theorem setKey_fb (k : Fin 16) (b : Bool) (s : State) : (setKey k b s).fb = s.fb := rfl
@[simp] theorem setKey_keys (k : Fin 16) (b : Bool) (s : State) : (setKey k b s).keys = s.keys.set k b := rfl
@[simp] theorem setKey_drawFlag (k : Fin 16) (b : Bool) (s : State) : (setKey k b s).drawFlag = s.drawFlag := rfl
@[simp] theorem setKey_mem (k : Fin 16) (b : Bool) (s : State) : (setKey k b s).mem = s.mem := rfl
@[simp] theorem setKey_halted (k : Fin 16) (b : Bool) (s : State) : (setKey k b s).halted = s.halted := rfl
@[simp] theorem setKey_faultCode (k : Fin 16) (b : Bool) (s : State) : (setKey k b s).faultCode = s.faultCode := rfl
@[simp] theorem setKey_faultPc (k : Fin 16) (b : Bool) (s : State) : (setKey k b s).faultPc = s.faultPc := rfl
@[simp] theorem setKey_faultInfo (k : Fin 16) (b : Bool) (s : State) : (setKey k b s).faultInfo = s.faultInfo := rfl
@[simp] theorem setKey_draws (k : Fin 16) (b : Bool) (s : State) : (setKey k b s).draws = s.draws := rfl

/-! ### clearDrawFlag -/

@[simp] theorem clearDrawFlag_v (s : State) : (clearDrawFlag s).v = s.v := rfl
@[simp] theorem clearDrawFlag_i (s : State) : (clearDrawFlag s).i = s.i := rfl
@[simp] theorem clearDrawFlag_pc (s : State) : (clearDrawFlag s).pc = s.pc := rfl
@[simp] theorem clearDrawFlag_stack (s : State) : (clearDrawFlag s).stack = s.stack := rfl
@[simp] theorem clearDrawFlag_sp (s : State) : (clearDrawFlag s).sp = s.sp := rfl
@[simp] theorem clearDrawFlag_dt (s : State) : (clearDrawFlag s).dt = s.dt := rfl
@[simp] theorem clearDrawFlag_st (s : State) : (clearDrawFlag s).st = s.st := rfl
@[simp] theorem clearDrawFlag_fb (s : State) : (clearDrawFlag s).fb = s.fb := rfl
@[simp] theorem clearDrawFlag_keys (s : State) : (clearDrawFlag s).keys = s.keys := rfl
@[simp] theorem clearDrawFlag_drawFlag (s : State) : (clearDrawFlag s).drawFlag = false := rfl
@[simp] theorem clearDrawFlag_mem (s : State) : (clearDrawFlag s).mem = s.mem := rfl
@[simp] theorem clearDrawFlag_halted (s : State) : (clearDrawFlag s).halted = s.halted := rfl
@[simp] theorem clearDrawFlag_faultCode (s : State) : (clearDrawFlag s).faultCode = s.faultCode := rfl
@[simp] theorem clearDrawFlag_faultPc (s : State) : (clearDrawFlag s).faultPc = s.faultPc := rfl
@[simp] theorem clearDrawFlag_faultInfo (s : State) : (clearDrawFlag s).faultInfo = s.faultInfo := rfl
@[simp] theorem clearDrawFlag_draws (s : State) : (clearDrawFlag s).draws = s.draws := rfl

/-! ### tickTimers -/

@[simp] theorem tickTimers_v (s : State) : (tickTimers s).2.v = s.v := rfl
@[simp] theorem tickTimers_i (s : State) : (tickTimers s).2.i = s.i := rfl
@[simp] theorem tickTimers_pc (s : State) : (tickTimers s).2.pc = s.pc := rfl
@[simp] theorem tickTimers_stack (s : State) : (tickTimers s).2.stack = s.stack := rfl
@[simp] theorem tickTimers_sp (s : State) : (tickTimers s).2.sp = s.sp := rfl
@[simp] theorem tickTimers_dt (s : State) : (tickTimers s).2.dt = countDown s.dt := rfl
@[simp] theorem tickTimers_st (s : State) : (tickTimers s).2.st = countDown s.st := rfl
@[simp] theorem tickTimers_fb (s : State) : (tickTimers s).2.fb = s.fb := rfl
@[simp] theorem tickTimers_keys (s : State) : (tickTimers s).2.keys = s.keys := rfl
@[simp] theorem tickTimers_drawFlag (s : State) : (tickTimers s).2.drawFlag = s.drawFlag := rfl
@[simp] theorem tickTimers_mem (s : State) : (tickTimers s).2.mem = s.mem := rfl
@[simp] theorem tickTimers_halted (s : State) : (tickTimers s).2.halted = s.halted := rfl
@[simp] theorem tickTimers_faultCode (s : State) : (tickTimers s).2.faultCode = s.faultCode := rfl
@[simp] theorem tickTimers_faultPc (s : State) : (tickTimers s).2.faultPc = s.faultPc := rfl
@[simp] theorem tickTimers_faultInfo (s : State) : (tickTimers s).2.faultInfo = s.faultInfo := rfl
@[simp] theorem tickTimers_draws (s : State) : (tickTimers s).2.draws = s.draws := rfl

/-- The font set has its 80 bytes (R27). -/
theorem length_font : Config.font.length = 80 := rfl

end Sys2Proof.Machine
end

