-- ==== Sys2Proof/Laws/Ops.lean ====
section
/-!
SUPPORT. For each shared operation, once, everything it can do; the provers cite these instead of unfolding it.
-/

namespace Sys2Proof.Machine

/-! ### Faults -/

/-- `raise` takes its fault (R158). -/
theorem faultTaken_raise (c : FaultCode) (n : Nat) (s : State) : FaultTaken c n s (raise c n s) := by
  refine ⟨rfl, rfl, rfl, ?_, ?_⟩
  · intro p hp
    cases p <;> first | rfl | exact ⟨rfl, rfl⟩ | (intro a; rfl) | (simp at hp)
  · intro h
    have hf : infoFits n = true := by simp [infoFits, h]
    simp [hf, Nat.mod_eq_of_lt h]

/-! ### The bounds check -/

theorem spanOutside_iff {n : Nat} {s : State} :
    spanOutside n s = true ↔ 1 ≤ n ∧ 4095 < s.i.toNat + n - 1 := by
  unfold spanOutside
  rw [decide_eq_true_iff]
  rfl

theorem spanInside_iff {n : Nat} {s : State} :
    spanOutside n s = false ↔ n = 0 ∨ s.i.toNat + n ≤ 4096 := by
  rw [← Bool.not_eq_true, spanOutside_iff]
  omega

theorem withSpan_outside {n : Nat} {f : State → State} {s : State} (h : spanOutside n s = true) :
    withSpan n f s = raise .memBounds (spanEnd n s) s := by
  simp [withSpan, h]

theorem withSpan_inside {n : Nat} {f : State → State} {s : State} (h : spanOutside n s = false) :
    withSpan n f s = advance (f s) := by
  simp [withSpan, h]

/-! ### The return stack -/

theorem pushReturn_full {a : Word} {s : State} (h : s.sp.val = 16) : pushReturn a s = none := by
  simp [pushReturn, h]

theorem pushReturn_room {a : Word} {s : State} (h : s.sp.val < 16) :
    pushReturn a s = some { s with stack := s.stack.set s.sp.val a, sp := ⟨s.sp.val + 1, by omega⟩ } := by
  simp [pushReturn, h]

theorem popReturn_empty {s : State} (h : s.sp.val = 0) : popReturn s = none := by
  simp [popReturn, h]

theorem popReturn_some {s : State} (h : s.sp.val ≠ 0) :
    popReturn s = some (s.stack[s.sp.val - 1]'(by omega), { s with sp := ⟨s.sp.val - 1, by omega⟩ }) := by
  simp [popReturn, h]

/-! ### Keys -/

theorem keyIndex?_some {b : Byte} (h : b.toNat < 16) : keyIndex? b = some ⟨b.toNat, h⟩ := by
  simp [keyIndex?, h]

theorem keyIndex?_none {b : Byte} (h : 16 ≤ b.toNat) : keyIndex? b = none := by
  have : ¬ b.toNat < 16 := by omega
  simp [keyIndex?, this]

/-- No key is found exactly when none is pressed. -/
theorem firstPressed_none {keys : Vector Bool 16} : firstPressed keys = none ↔ ∀ k : Fin 16, keys[k] = false := by
  simp [firstPressed, List.find?_eq_none, List.mem_finRange]

/-- The key found is pressed. -/
theorem firstPressed_pressed {keys : Vector Bool 16} {k : Fin 16} (h : firstPressed keys = some k) :
    keys[k] = true := by
  have := List.find?_some h
  simpa using this

/-! ### Registers -/

@[simp] theorem length_decimalDigits (b : Byte) : (decimalDigits b).length = 3 := rfl

@[simp] theorem length_registersUpTo (x : Reg) (s : State) : (registersUpTo x s).length = x.val + 1 := by
  simp only [registersUpTo, List.length_take, Vector.length_toList]
  omega

theorem getElem_registersUpTo (x : Reg) (s : State) (k : Nat) (h : k < (registersUpTo x s).length) :
    (registersUpTo x s)[k] = s.v[k]'(by rw [length_registersUpTo] at h; omega) := by
  simp [registersUpTo]

theorem getElem_loadedRegisters (x : Reg) (m : Memory) (a : Nat) (v : Vector Byte 16) (j : Reg) :
    (loadedRegisters x m a v)[j] = if j ≤ x then m.read (a + j.val) else v[j] := by
  simp [loadedRegisters]

/-! ### Operations that store keep the canonical form -/

theorem wf_loadFont {font : List Byte} {s : State} (hm : s.mem.wf = true) (hf : fontFits font = true) :
    (loadFont font s).mem.wf = true := by
  rw [loadFont_mem]
  refine Memory.wf_store hm ?_
  rw [of_decide_eq_true hf]
  decide

theorem wf_loadFontSet {s : State} (hm : s.mem.wf = true) : (loadFontSet s).mem.wf = true :=
  wf_loadFont hm (decide_eq_true length_font)

theorem wf_loadProgram {bytes : List Byte} {s : State} (hm : s.mem.wf = true) :
    (loadProgram bytes s).2.mem.wf = true := by
  unfold loadProgram
  split
  · rename_i hf
    have hl : bytes.length ≤ 3584 := of_decide_eq_true hf
    refine Memory.wf_store hm ?_
    unfold Config.programBase Config.memBytes
    omega
  · exact hm

/-- Storing inside the span the bounds check admits keeps the form. -/
theorem wf_storeAtIndex {bytes : List Byte} {s : State} (hm : s.mem.wf = true)
    (h : spanOutside bytes.length s = false) : (storeAtIndex bytes s).mem.wf = true := by
  rcases spanInside_iff.mp h with h0 | h0
  · rw [List.length_eq_zero_iff] at h0
    subst h0
    exact hm
  · exact Memory.wf_store hm h0

/-! ### Fetch and step: everything a step can do -/

theorem fetchOutside_iff {s : State} : fetchOutside s = true ↔ 4094 < s.pc.toNat := by
  unfold fetchOutside
  rw [decide_eq_true_iff]
  unfold lastAddress
  omega

theorem fetchInside_iff {s : State} : fetchOutside s = false ↔ s.pc.toNat ≤ 4094 := by
  rw [← Bool.not_eq_true, fetchOutside_iff]
  omega

/-- When a step runs an instruction, and which. -/
theorem fetchInstr_run_iff {s : State} {i : Instr} :
    fetchInstr s = .run i ↔ s.halted = false ∧ s.pc.toNat ≤ 4094 ∧ decodeWord (fetchWord s) = some i := by
  rw [← fetchInside_iff]
  unfold fetchInstr
  cases s.halted <;> cases fetchOutside s <;> cases decodeWord (fetchWord s) <;> simp

/-- A step is one of four things: nothing while halted, a fetch fault, a decode fault, the decoded instruction. -/
theorem step_cases (s : State) :
    (s.halted = true ∧ step s = .next s) ∨
    (s.halted = false ∧ 4094 < s.pc.toNat ∧ step s = .next (raise .fetchBounds s.pc.toNat s)) ∨
    (s.halted = false ∧ s.pc.toNat ≤ 4094 ∧ decodeWord (fetchWord s) = none ∧
      step s = .next (raise .decodeError (fetchWord s).toNat s)) ∨
    (s.halted = false ∧ s.pc.toNat ≤ 4094 ∧ ∃ i, decodeWord (fetchWord s) = some i ∧ step s = exec i s) := by
  unfold step fetchInstr
  cases hh : s.halted with
  | true => exact .inl ⟨rfl, rfl⟩
  | false =>
    cases ho : fetchOutside s with
    | true => exact .inr (.inl ⟨rfl, fetchOutside_iff.mp ho, rfl⟩)
    | false =>
      have hp := fetchInside_iff.mp ho
      cases hd : decodeWord (fetchWord s) with
      | none => exact .inr (.inr (.inl ⟨rfl, hp, rfl, rfl⟩))
      | some i => exact .inr (.inr (.inr ⟨rfl, hp, i, rfl, rfl⟩))

end Sys2Proof.Machine
end

