-- ==== Sys2Proof/Laws/Registers.lean ====
section
/-! SUPPORT. Reading a register after writing one (spec/10_state.md R10): no register is hard-wired or aliased. -/

namespace Sys2Proof.Machine

/-- A register file after one write, read at a register. -/
theorem getElem_set_reg (v : Vector Byte 16) (x r : Reg) (b : Byte) :
    (v.set x b)[r] = if r = x then b else v[r] := by
  by_cases h : r = x
  · subst h
    simp
  · have : ¬ x.val = r.val := fun e => h (Fin.ext e.symm)
    simp [h, this]

theorem writeV_get (s : State) (x r : Reg) (b : Byte) :
    (writeV s x b).v[r] = if r = x then b else s.v[r] := getElem_set_reg s.v x r b

theorem writeFlag_get (s : State) (c : Bool) (r : Reg) :
    (writeFlag s c).v[r] = if r = flagReg then flagByte c else s.v[r] := getElem_set_reg s.v flagReg r _

theorem readV_writeV (s : State) (x r : Reg) (b : Byte) :
    readV (writeV s x b) r = if r = x then b else readV s r := writeV_get s x r b

theorem readV_writeFlag (s : State) (c : Bool) (r : Reg) :
    readV (writeFlag s c) r = if r = flagReg then flagByte c else readV s r := writeFlag_get s c r

end Sys2Proof.Machine
end

