-- ==== Sys2Proof/Laws/Exec.lean ====
section
/-!
SUPPORT. The meanings that have more than one outcome, each outcome under its condition (spec/40_step_and_flow.md R85, R87;
spec/20_memory.md R46; spec/44_keypad_timers.md R140, R143). Every other meaning is one expression.
-/

namespace Sys2Proof.Machine

theorem exec_ret_empty {s : State} (h : s.sp.val = 0) : exec .ret s = .next (raise .stackUnderflow 0 s) := by
  simp only [exec, execRet, popReturn_empty h]

theorem exec_ret_some {s : State} (h : s.sp.val ≠ 0) :
    exec .ret s = .next (jumpTo ((s.stack[s.sp.val - 1]'(by omega)) + 2) { s with sp := ⟨s.sp.val - 1, by omega⟩ }) := by
  simp only [exec, execRet, popReturn_some h]

theorem exec_call_full {nnn : Addr} {s : State} (h : s.sp.val = 16) :
    exec (.call nnn) s = .next (raise .stackOverflow nnn.toNat s) := by
  simp only [exec, execCall, pushReturn_full h]

theorem exec_call_room {nnn : Addr} {s : State} (h : s.sp.val < 16) :
    exec (.call nnn) s =
      .next (jumpTo (zextAddr nnn)
        { s with stack := s.stack.set s.sp.val s.pc, sp := ⟨s.sp.val + 1, by omega⟩ }) := by
  simp only [exec, execCall, pushReturn_room h]

theorem exec_ldVxK_none {x : Reg} {s : State} (h : firstPressed s.keys = none) : exec (.ldVxK x) s = .next s := by
  simp only [exec, execLdVxK, h]

theorem exec_ldVxK_some {x : Reg} {s : State} {k : Fin 16} (h : firstPressed s.keys = some k) :
    exec (.ldVxK x) s = .next (advance (writeV s x (BitVec.ofNat 8 k.val))) := by
  simp only [exec, execLdVxK, h]

/-- An access of `n` bytes from `I` either faults or has its effect. -/
theorem withSpan_cases {n : Nat} {f : State → State} {s t : State}
    (h : Host.Outcome.next (withSpan n f s) = (.next t : Result)) :
    (spanOutside n s = true ∧ t = raise .memBounds (spanEnd n s) s) ∨
    (spanOutside n s = false ∧ t = advance (f s)) := by
  simp only [Host.Outcome.next.injEq] at h
  cases ho : spanOutside n s with
  | true => exact .inl ⟨rfl, by rw [← h, withSpan_outside ho]⟩
  | false => exact .inr ⟨rfl, by rw [← h, withSpan_inside ho]⟩

/-- A skip on a key either faults or skips on the level of the key its register names. -/
theorem skipOnKey_cases (x : Reg) (b : Bool) (s : State) :
    (16 ≤ (readV s x).toNat ∧ skipOnKey x b s = raise .keyIndex (readV s x).toNat s) ∨
    (∃ h : (readV s x).toNat < 16,
      skipOnKey x b s = skipIf (s.keys[(⟨(readV s x).toNat, h⟩ : Fin 16)] == b) s) := by
  by_cases h : (readV s x).toNat < 16
  · exact .inr ⟨h, by unfold skipOnKey; rw [keyIndex?_some h]⟩
  · exact .inl ⟨by omega, by unfold skipOnKey; rw [keyIndex?_none (by omega)]⟩

/-- The numbers every fault but a MemBounds carries fit `fault_info`. -/
theorem infoFits_of_lt {n : Nat} (h : n < 65536) : infoFits n = true := by
  unfold infoFits
  exact decide_eq_true h

end Sys2Proof.Machine
end

