-- ==== Sys2Proof/Laws/Flags.lean ====
section
/-! SUPPORT. What each flag computation says, as a fact about numbers (spec/41_load_alu.md R113). -/

namespace Sys2Proof.Machine

theorem carryOut_iff {a b : Byte} : carryOut a b = true ↔ 255 < a.toNat + b.toNat := by
  unfold carryOut
  exact decide_eq_true_iff

theorem noBorrow_iff {a b : Byte} : noBorrow a b = true ↔ ¬ a.toNat < b.toNat := by
  unfold noBorrow
  rw [Bool.not_eq_true', decide_eq_false_iff_not]

theorem indexOverflow_iff {i : Word} {b : Byte} : indexOverflow i b = true ↔ 0xFFF < i.toNat + b.toNat := by
  unfold indexOverflow
  exact decide_eq_true_iff

@[simp] theorem flagByte_true : flagByte true = 1 := rfl

@[simp] theorem flagByte_false : flagByte false = 0 := rfl

/-- The low bit as a number (R109). -/
theorem toNat_flagByte_lowBit (a : Byte) : (flagByte (lowBit a)).toNat = a.toNat % 2 := by
  have : ∀ a : Byte, (flagByte (lowBit a)).toNat = a.toNat % 2 := by decide
  exact this a

/-- The top bit as a number (R111). -/
theorem toNat_flagByte_topBit (a : Byte) : (flagByte (topBit a)).toNat = a.toNat / 128 := by
  have : ∀ a : Byte, (flagByte (topBit a)).toNat = a.toNat / 128 := by decide
  exact this a

end Sys2Proof.Machine
end

