-- ==== Sys2Proof/Laws/Framebuffer.lean ====
section
/-!
SUPPORT. The laws of the framebuffer: flipping one cell, the clear, and what a whole list of plots does
(spec/10_state.md R22, spec/43_display.md R131, R134).
-/

namespace Sys2Proof.Machine

/-- One flip changes one cell. -/
theorem cellAt_flipCell (fb : Framebuffer) (k j : Fin 2048) :
    cellAt (flipCell fb k) j = (cellAt fb j ^^ decide (j = k)) := by
  unfold cellAt flipCell
  rw [Vector.getElem_set]
  by_cases hrow : k.val / 64 = j.val / 64
  · rw [if_pos hrow]
    simp only [hrow, BitVec.getLsbD_xor, BitVec.getLsbD_twoPow]
    have hlt : k.val % 64 < 64 := Nat.mod_lt _ (by decide)
    have hiff : (k.val % 64 = j.val % 64) ↔ j = k := by
      rw [Fin.ext_iff]
      omega
    simp [hlt, hiff]
  · rw [if_neg hrow]
    have : j ≠ k := fun h => hrow (by rw [h])
    simp [this]

@[simp] theorem cellAt_cleared (k : Fin 2048) : cellAt clearedFramebuffer k = false := by
  simp [cellAt, clearedFramebuffer]

/-- A framebuffer is its 2048 cells. -/
theorem framebuffer_ext {f g : Framebuffer} (h : ∀ k, cellAt f k = cellAt g k) : f = g := by
  apply Vector.ext
  intro r hr
  apply BitVec.eq_of_getLsbD_eq
  intro c hc
  have := h ⟨c + 64 * r, by omega⟩
  simp only [cellAt] at this
  have h1 : (c + 64 * r) / 64 = r := by omega
  have h2 : (c + 64 * r) % 64 = c := by omega
  simpa [h1, h2] using this

@[simp] theorem plot_fb (d : Canvas) (k : Fin 2048) : (plot d k).fb = flipCell d.fb k := rfl

@[simp] theorem plot_hit (d : Canvas) (k : Fin 2048) : (plot d k).hit = (d.hit || cellAt d.fb k) := rfl

theorem foldl_plot_spec (cells : List (Fin 2048)) (hn : cells.Nodup) (d : Canvas) :
    (∀ j, cellAt (cells.foldl plot d).fb j = (cellAt d.fb j ^^ decide (j ∈ cells))) ∧
    ((cells.foldl plot d).hit = true ↔ d.hit = true ∨ ∃ k ∈ cells, cellAt d.fb k = true) := by
  induction cells generalizing d with
  | nil => simp
  | cons k ks ih =>
    rw [List.nodup_cons] at hn
    obtain ⟨ih1, ih2⟩ := ih hn.2 (plot d k)
    refine ⟨fun j => ?_, ?_⟩
    · rw [List.foldl_cons, ih1, plot_fb, cellAt_flipCell]
      by_cases hj : j = k
      · subst hj
        simp [hn.1]
      · simp [hj]
    · rw [List.foldl_cons, ih2, plot_hit, plot_fb]
      have hks : ∀ c ∈ ks, cellAt (flipCell d.fb k) c = cellAt d.fb c := by
        intro c hc
        have : c ≠ k := fun h => hn.1 (h ▸ hc)
        simp [cellAt_flipCell, this]
      constructor
      · rintro (h | ⟨c, hc, h⟩)
        · rcases Bool.or_eq_true _ _ ▸ h with h | h
          · exact .inl h
          · exact .inr ⟨k, List.mem_cons_self, h⟩
        · exact .inr ⟨c, List.mem_cons_of_mem _ hc, (hks c hc) ▸ h⟩
      · rintro (h | ⟨c, hc, h⟩)
        · simp [h]
        · rcases List.mem_cons.mp hc with rfl | hc
          · simp [h]
          · exact .inr ⟨c, hc, (hks c hc).symm ▸ h⟩

/-- What drawing a list of distinct cells leaves: each listed cell toggled, a hit exactly if one of them was set. -/
theorem plotAll_spec (fb : Framebuffer) (cells : List (Fin 2048)) (hn : cells.Nodup) :
    (∀ j, cellAt (plotAll fb cells).fb j = (cellAt fb j ^^ decide (j ∈ cells))) ∧
    ((plotAll fb cells).hit = true ↔ ∃ k ∈ cells, cellAt fb k = true) := by
  have h := foldl_plot_spec cells hn { fb := fb, hit := false }
  simpa [plotAll] using h

/-- Which cells a sprite row covers. -/
theorem mem_rowCells {px py : Byte} {r : Nat} {b : Byte} {k : Fin 2048} :
    k ∈ rowCells px py r b ↔ ∃ c < 8, b.getLsbD (7 - c) = true ∧ cellIndex px py r c = k := by
  simp only [rowCells, List.mem_filterMap, List.mem_range]
  constructor
  · rintro ⟨c, hc, h⟩
    by_cases hb : b.getLsbD (7 - c) = true
    · rw [if_pos hb, Option.some.injEq] at h
      exact ⟨c, hc, hb, h⟩
    · simp [hb] at h
  · rintro ⟨c, hc, hb, h⟩
    exact ⟨c, hc, by rw [if_pos hb, h]⟩

/-- Which cells a sprite covers. -/
theorem mem_spriteCells {px py : Byte} {r0 : Nat} {rows : List Byte} {k : Fin 2048} :
    k ∈ spriteCells px py r0 rows ↔
      ∃ r, ∃ h : r < rows.length, ∃ c < 8, rows[r].getLsbD (7 - c) = true ∧ cellIndex px py (r0 + r) c = k := by
  induction rows generalizing r0 with
  | nil => simp [spriteCells]
  | cons b bs ih =>
    rw [spriteCells, List.mem_append, mem_rowCells, ih]
    constructor
    · rintro (⟨c, hc, hb, h⟩ | ⟨r, hr, c, hc, hb, h⟩)
      · exact ⟨0, by simp, c, hc, hb, h⟩
      · refine ⟨r + 1, by simpa using hr, c, hc, hb, ?_⟩
        rw [← h]
        congr 1
        omega
    · rintro ⟨r, hr, c, hc, hb, h⟩
      cases r with
      | zero => exact .inl ⟨c, hc, hb, h⟩
      | succ r =>
        refine .inr ⟨r, by simpa using hr, c, hc, hb, ?_⟩
        rw [← h]
        congr 1
        omega

end Sys2Proof.Machine
end

