-- ==== Sys2Proof/Laws/HostOps.lean ====
section
/-!
SUPPORT. What each host operation answers and leaves, and what a sequence of them does (spec/10_state.md R30).
-/

namespace Sys2Proof.Machine

@[simp] theorem stepResponse_running {t : State} (h : t.halted = false) : stepResponse t = .ok := by
  simp [stepResponse, h]

@[simp] theorem stepResponse_halted {t : State} (h : t.halted = true) : stepResponse t = .fault t.faultCode := by
  simp [stepResponse, h]

/-- `STEP` as an operation, from the step itself. -/
theorem perform_step {s t : State} (h : step s = .next t) : perform .step s = .next (stepResponse t, t) := by
  simp only [perform, h]

/-- A run of the host's interface, one step unfolded. -/
theorem core_run_succ {n : Nat} {s t : State} (h : step s = .next t) :
    Host.Core.run Sys2Proof.core (n + 1) s = Host.Core.run Sys2Proof.core n t := by
  simp only [Host.Core.run, Sys2Proof.core]
  rw [h]

/-- A performed `STEP` came from a step. -/
theorem step_of_perform {s t : State} {r : Response} (h : perform .step s = .next (r, t)) : step s = .next t := by
  simp only [perform] at h
  split at h
  · rename_i u hu
    simp only [Host.Outcome.next.injEq, Prod.mk.injEq] at h
    rw [hu, h.2]
  · cases h
  · cases h

@[simp] theorem performAll_nil (s : State) : performAll [] s = .next ([], s) := rfl

/-- One operation in front of a sequence. -/
theorem performAll_cons {op : HostOp} {ops : List HostOp} {s t u : State} {r : Response} {rs : List Response}
    (h : perform op s = .next (r, t)) (hs : performAll ops t = .next (rs, u)) :
    performAll (op :: ops) s = .next (r :: rs, u) := by
  simp only [performAll, h, hs]

/-- Two sequences one after the other. -/
theorem performAll_append {ops ops' : List HostOp} {s t u : State} {rs rs' : List Response}
    (h : performAll ops s = .next (rs, t)) (h' : performAll ops' t = .next (rs', u)) :
    performAll (ops ++ ops') s = .next (rs ++ rs', u) := by
  induction ops generalizing s rs with
  | nil =>
    simp only [performAll_nil, Host.Outcome.next.injEq, Prod.mk.injEq] at h
    obtain ⟨rfl, rfl⟩ := h
    exact h'
  | cons op ops ih =>
    simp only [performAll] at h
    split at h
    · rename_i r w hw
      split at h
      · rename_i qs v hv
        simp only [Host.Outcome.next.injEq, Prod.mk.injEq] at h
        obtain ⟨rfl, rfl⟩ := h
        exact performAll_cons hw (ih hv)
      · cases h
      · cases h
    · cases h
    · cases h

end Sys2Proof.Machine
end

