-- ==== Sys2Proof/Laws/PerInstr.lean ====
section
/-!
SUPPORT. A statement about every instruction as syntax, one lemma per constructor: its encoding selects its row of the
opcode map (spec/30_encoding.md R65).
-/

namespace Sys2Proof.Laws.EncodesToRow

/-- The word of `i` selects the row of `i`. -/
def Statement (i : Instr) : Prop := i.row.selects (encode i) = true

theorem nnn_selects (t : BitVec 4) (a : Addr) : (nnnForm t a &&& 0xF000#16) = nnnForm t 0 := by
  apply BitVec.eq_of_getLsbD_eq
  intro i hi
  have : (0xF000#16).getLsbD i = decide (12 ≤ i) := by
    revert i; decide
  rw [BitVec.getLsbD_and, this]
  simp only [nnnForm, BitVec.getLsbD_append]
  by_cases h : i < 12 <;> simp [h]
  omega

theorem xnn_selects (t : BitVec 4) (x : Reg) (nn : Byte) : (xnnForm t x nn &&& 0xF000#16) = xnnForm t 0 0 := by
  apply BitVec.eq_of_getLsbD_eq
  intro i hi
  have : (0xF000#16).getLsbD i = decide (12 ≤ i) := by
    revert i; decide
  rw [BitVec.getLsbD_and, this]
  simp only [xnnForm, BitVec.getLsbD_append]
  by_cases h : i < 8
  · simp [h]; omega
  · by_cases h4 : i - 8 < 4
    · simp [h, h4, regBits]; omega
    · simp [h, h4]; omega

theorem x_selects (t : BitVec 4) (x : Reg) (nn : Byte) : (xnnForm t x nn &&& 0xF0FF#16) = xnnForm t 0 nn := by
  apply BitVec.eq_of_getLsbD_eq
  intro i hi
  have : (0xF0FF#16).getLsbD i = (decide (12 ≤ i) || decide (i < 8)) := by
    revert i; decide
  rw [BitVec.getLsbD_and, this]
  simp only [xnnForm, BitVec.getLsbD_append]
  by_cases h : i < 8
  · simp [h]
  · by_cases h4 : i - 8 < 4
    · simp [h, h4, regBits]; omega
    · simp [h, h4]; omega

theorem xy_selects (t : BitVec 4) (x y : Reg) (n : BitVec 4) :
    (xynForm t x y n &&& 0xF00F#16) = xynForm t 0 0 n := by
  apply BitVec.eq_of_getLsbD_eq
  intro i hi
  have : (0xF00F#16).getLsbD i = (decide (12 ≤ i) || decide (i < 4)) := by
    revert i; decide
  rw [BitVec.getLsbD_and, this]
  simp only [xynForm, BitVec.getLsbD_append]
  by_cases h : i < 4
  · simp [h]
  · by_cases h4 : i - 4 < 4
    · simp [h, h4, regBits]; omega
    · by_cases h8 : i - 4 - 4 < 4
      · simp [h, h4, h8, regBits]; omega
      · simp [h, h4, h8]; omega

theorem xyn_selects (t : BitVec 4) (x y : Reg) (n : BitVec 4) :
    (xynForm t x y n &&& 0xF000#16) = xynForm t 0 0 0 := by
  apply BitVec.eq_of_getLsbD_eq
  intro i hi
  have : (0xF000#16).getLsbD i = decide (12 ≤ i) := by
    revert i; decide
  rw [BitVec.getLsbD_and, this]
  simp only [xynForm, BitVec.getLsbD_append]
  by_cases h : i < 4
  · simp [h]; omega
  · by_cases h4 : i - 4 < 4
    · simp [h, h4, regBits]; omega
    · by_cases h8 : i - 4 - 4 < 4
      · simp [h, h4, h8, regBits]; omega
      · simp [h, h4, h8]; omega

theorem cls : Statement .cls := rfl
theorem ret : Statement .ret := rfl
theorem jp (nnn : Addr) : Statement (.jp nnn) := beq_iff_eq.mpr (nnn_selects 0x1#4 nnn)
theorem call (nnn : Addr) : Statement (.call nnn) := beq_iff_eq.mpr (nnn_selects 0x2#4 nnn)
theorem seImm (x : Reg) (nn : Byte) : Statement (.seImm x nn) := beq_iff_eq.mpr (xnn_selects 0x3#4 x nn)
theorem sneImm (x : Reg) (nn : Byte) : Statement (.sneImm x nn) := beq_iff_eq.mpr (xnn_selects 0x4#4 x nn)
theorem seReg (x y : Reg) : Statement (.seReg x y) := beq_iff_eq.mpr (xy_selects 0x5#4 x y 0x0#4)
theorem ldImm (x : Reg) (nn : Byte) : Statement (.ldImm x nn) := beq_iff_eq.mpr (xnn_selects 0x6#4 x nn)
theorem addImm (x : Reg) (nn : Byte) : Statement (.addImm x nn) := beq_iff_eq.mpr (xnn_selects 0x7#4 x nn)
theorem ldReg (x y : Reg) : Statement (.ldReg x y) := beq_iff_eq.mpr (xy_selects 0x8#4 x y 0x0#4)
theorem orReg (x y : Reg) : Statement (.orReg x y) := beq_iff_eq.mpr (xy_selects 0x8#4 x y 0x1#4)
theorem andReg (x y : Reg) : Statement (.andReg x y) := beq_iff_eq.mpr (xy_selects 0x8#4 x y 0x2#4)
theorem xorReg (x y : Reg) : Statement (.xorReg x y) := beq_iff_eq.mpr (xy_selects 0x8#4 x y 0x3#4)
theorem addReg (x y : Reg) : Statement (.addReg x y) := beq_iff_eq.mpr (xy_selects 0x8#4 x y 0x4#4)
theorem sub (x y : Reg) : Statement (.sub x y) := beq_iff_eq.mpr (xy_selects 0x8#4 x y 0x5#4)
theorem shr (x y : Reg) : Statement (.shr x y) := beq_iff_eq.mpr (xy_selects 0x8#4 x y 0x6#4)
theorem subn (x y : Reg) : Statement (.subn x y) := beq_iff_eq.mpr (xy_selects 0x8#4 x y 0x7#4)
theorem shl (x y : Reg) : Statement (.shl x y) := beq_iff_eq.mpr (xy_selects 0x8#4 x y 0xE#4)
theorem sneReg (x y : Reg) : Statement (.sneReg x y) := beq_iff_eq.mpr (xy_selects 0x9#4 x y 0x0#4)
theorem ldI (nnn : Addr) : Statement (.ldI nnn) := beq_iff_eq.mpr (nnn_selects 0xA#4 nnn)
theorem jpV0 (nnn : Addr) : Statement (.jpV0 nnn) := beq_iff_eq.mpr (nnn_selects 0xB#4 nnn)
theorem rnd (x : Reg) (nn : Byte) : Statement (.rnd x nn) := beq_iff_eq.mpr (xnn_selects 0xC#4 x nn)
theorem drw (x y : Reg) (n : Nat) : Statement (.drw x y n) :=
  beq_iff_eq.mpr (xyn_selects 0xD#4 x y (BitVec.ofNat 4 n))
theorem skp (x : Reg) : Statement (.skp x) := beq_iff_eq.mpr (x_selects 0xE#4 x 0x9E#8)
theorem sknp (x : Reg) : Statement (.sknp x) := beq_iff_eq.mpr (x_selects 0xE#4 x 0xA1#8)
theorem ldVxDt (x : Reg) : Statement (.ldVxDt x) := beq_iff_eq.mpr (x_selects 0xF#4 x 0x07#8)
theorem ldVxK (x : Reg) : Statement (.ldVxK x) := beq_iff_eq.mpr (x_selects 0xF#4 x 0x0A#8)
theorem ldDtVx (x : Reg) : Statement (.ldDtVx x) := beq_iff_eq.mpr (x_selects 0xF#4 x 0x15#8)
theorem ldStVx (x : Reg) : Statement (.ldStVx x) := beq_iff_eq.mpr (x_selects 0xF#4 x 0x18#8)
theorem addI (x : Reg) : Statement (.addI x) := beq_iff_eq.mpr (x_selects 0xF#4 x 0x1E#8)
theorem ldF (x : Reg) : Statement (.ldF x) := beq_iff_eq.mpr (x_selects 0xF#4 x 0x29#8)
theorem ldB (x : Reg) : Statement (.ldB x) := beq_iff_eq.mpr (x_selects 0xF#4 x 0x33#8)
theorem stRegs (x : Reg) : Statement (.stRegs x) := beq_iff_eq.mpr (x_selects 0xF#4 x 0x55#8)
theorem ldRegs (x : Reg) : Statement (.ldRegs x) := beq_iff_eq.mpr (x_selects 0xF#4 x 0x65#8)

end Sys2Proof.Laws.EncodesToRow
end

