-- ==== Sys2Proof/Tests/Slice0.lean ====
section
/-!
SUPPORT. Tests of the model. Expected values come from spec/95_test_vectors.md (E<n>, T<n>) and from the encodings of
spec/30_encoding.md, or are worked by hand from a rule. The last part shows, for each obligation with hypotheses, concrete
inputs that meet them.
-/

open Sys2Proof Sys2Proof.Machine Sys2Proof.Claims

namespace Sys2Proof.Tests

/-- Does an outcome go on to a state with a property? -/
def goesTo (r : Result) (p : State → Bool) : Bool :=
  match r with
  | .next t => p t
  | .fault _ => false
  | .refused _ => false

/-- The reset state with some registers set. -/
def regs (l : List (Reg × Byte)) : State := l.foldl (fun s p => writeV s p.1 p.2) State.reset

/-- The same with I set. -/
def regsI (i : Word) (l : List (Reg × Byte)) : State := { regs l with i := i }

/-- The state with bytes stored at an address. -/
def poke (a : Nat) (bytes : List Byte) (s : State) : State := { s with mem := s.mem.store a bytes }

/-- One step from `s` with the word `w` at `pc`. -/
def run (w : Nat) (s : State) : Result := step (s.withFetchWord 16 w)

/-- The next state is a plain advance and these registers hold these values. -/
def regsAre (l : List (Reg × Byte)) (t : State) : Bool :=
  t.pc == 0x202 && !t.halted && l.all fun p => readV t p.1 == p.2

/-- The latch holds this fault, and `pc` has not moved. -/
def faulted (code : FaultCode) (pc info : Word) (t : State) : Bool :=
  t.halted && t.faultCode == code && t.faultPc == pc && t.faultInfo == info && t.pc == pc

/-! ### WellFormed: ill-formed terms are refused -/

theorem test_wellFormed_refuses_sixteen_rows : (Instr.drw 1 2 16).wellFormed = false := by decide

theorem test_wellFormed_accepts_fifteen_rows : (Instr.drw 15 15 15).wellFormed = true := by decide

theorem test_programFits_boundary :
    programFits (List.replicate 3585 0xAA) = false ∧ programFits (List.replicate 3584 0xAA) = true := by
  unfold programFits
  rw [List.length_replicate, List.length_replicate]
  decide

theorem test_fontFits_refuses_79_bytes : fontFits (Config.font.drop 1) = false ∧ fontFits Config.font = true := by decide

/-! ### Decoding: words written bit by bit from R62's formats and R65's patterns, one for every constructor -/

theorem test_decode_flow :
    decodeWord 0b0000000011100000 = some .cls ∧ decodeWord 0b0000000011101110 = some .ret ∧
    decodeWord 0b0001101010111100 = some (.jp 0xABC) ∧ decodeWord 0b0010101010111100 = some (.call 0xABC) ∧
    decodeWord 0b0011001100101010 = some (.seImm 3 0x2A) ∧ decodeWord 0b0100001100101010 = some (.sneImm 3 0x2A) ∧
    decodeWord 0b0101000100100000 = some (.seReg 1 2) ∧ decodeWord 0b1001000100100000 = some (.sneReg 1 2) ∧
    decodeWord 0b1011001000000100 = some (.jpV0 0x204) := by decide

theorem test_decode_loadAlu :
    decodeWord 0b0110101000101111 = some (.ldImm 10 0x2F) ∧ decodeWord 0b0111000100000011 = some (.addImm 1 3) ∧
    decodeWord 0b1000000100100000 = some (.ldReg 1 2) ∧ decodeWord 0b1000000100100001 = some (.orReg 1 2) ∧
    decodeWord 0b1000000100100010 = some (.andReg 1 2) ∧ decodeWord 0b1000000100100011 = some (.xorReg 1 2) ∧
    decodeWord 0b1000000100100100 = some (.addReg 1 2) ∧ decodeWord 0b1000000100100101 = some (.sub 1 2) ∧
    decodeWord 0b1000000100100110 = some (.shr 1 2) ∧ decodeWord 0b1000000100100111 = some (.subn 1 2) ∧
    decodeWord 0b1000101010111110 = some (.shl 10 11) ∧ decodeWord 0b1100001100001111 = some (.rnd 3 0x0F) := by decide

theorem test_decode_indexDisplay :
    decodeWord 0b1010001011110000 = some (.ldI 0x2F0) ∧ decodeWord 0b1111001000011110 = some (.addI 2) ∧
    decodeWord 0b1111010000101001 = some (.ldF 4) ∧ decodeWord 0b1111000000110011 = some (.ldB 0) ∧
    decodeWord 0b1111000101010101 = some (.stRegs 1) ∧ decodeWord 0b1111101001100101 = some (.ldRegs 10) ∧
    decodeWord 0b1101000100100101 = some (.drw 1 2 5) := by decide

theorem test_decode_keypadTimers :
    decodeWord 0b1110001010011110 = some (.skp 2) ∧ decodeWord 0b1110000010100001 = some (.sknp 0) ∧
    decodeWord 0b1111010000000111 = some (.ldVxDt 4) ∧ decodeWord 0b1111001100001010 = some (.ldVxK 3) ∧
    decodeWord 0b1111010000010101 = some (.ldDtVx 4) ∧ decodeWord 0b1111010000011000 = some (.ldStVx 4) := by decide

/-- T7 to T18. -/
theorem test_decode_invalid :
    [0x0000, 0x00E1, 0x0123, 0x5121, 0x9125, 0x8128, 0x812F, 0xE19F, 0xE100, 0xF1FF, 0xF100, 0xF175].all
      (fun w => decodeWord w == none) = true := by decide

/-- R42: bytes 12 34 are the word 0x1234; one byte alone is no instruction. -/
theorem test_decode_bytes :
    decode [0x12, 0x34, 0xFF] = .ok (.jp 0x234, [0xFF]) ∧ decode [0x12] = .error .truncated ∧
    decode [0x00, 0x00] = .error (.unknownOpcode 0) ∧ decodeTableWord 16 0xD125 = some (.drw 1 2 5) := by decide

/-! ### Flow of control -/

/-- T24, T25. -/
theorem test_jp : goesTo (run 0x1ABC State.reset) (·.pc == 0xABC) = true := by decide

/-- T26. -/
theorem test_call_last_slot :
    goesTo (run 0x2ABC { State.reset with pc := 0x345, sp := 15 })
      (fun t => t.stack[15] == 0x345 && t.sp == 16 && t.pc == 0xABC) = true := by decide

/-- T27. -/
theorem test_call_overflow :
    goesTo (run 0x2ABC { State.reset with sp := 16 }) (fun t => faulted .stackOverflow 0x200 0xABC t && t.sp == 16) = true := by
  decide

/-- T28. -/
theorem test_ret :
    goesTo (run 0x00EE { State.reset with pc := 0x400, sp := 2, stack := (State.reset.stack.set 0 0x204).set 1 0x300 })
      (fun t => t.sp == 1 && t.pc == 0x302 && t.stack[1] == 0x300) = true := by decide

/-- T29. -/
theorem test_ret_underflow : goesTo (run 0x00EE State.reset) (faulted .stackUnderflow 0x200 0) = true := by decide

/-- T30, T31. -/
theorem test_jpV0 :
    goesTo (run 0xB204 (regs [(0, 4)])) (·.pc == 0x208) = true ∧
    goesTo (run 0xBFFF (regs [(0, 0xFF)])) (·.pc == 0x10FE) = true := by decide

/-- E3: 3xnn. -/
theorem test_seImm :
    goesTo (run 0x3122 (regs [(1, 0x22)])) (·.pc == 0x204) = true ∧
    goesTo (run 0x3123 (regs [(1, 0x22)])) (·.pc == 0x202) = true := by decide

/-- E3: 4xnn. -/
theorem test_sneImm :
    goesTo (run 0x4123 (regs [(1, 0x22)])) (·.pc == 0x204) = true ∧
    goesTo (run 0x4122 (regs [(1, 0x22)])) (·.pc == 0x202) = true := by decide

/-- E3: 5xy0. -/
theorem test_seReg :
    goesTo (run 0x5120 (regs [(1, 0x22), (2, 0x22)])) (·.pc == 0x204) = true ∧
    goesTo (run 0x5130 (regs [(1, 0x22), (3, 0x23)])) (·.pc == 0x202) = true := by decide

/-- E3: 9xy0. -/
theorem test_sneReg :
    goesTo (run 0x9130 (regs [(1, 0x22), (3, 0x23)])) (·.pc == 0x204) = true ∧
    goesTo (run 0x9120 (regs [(1, 0x22), (2, 0x22)])) (·.pc == 0x202) = true := by decide

/-- T32: a skip over the end of memory, and T20's fetch beyond it. -/
theorem test_skip_to_end :
    goesTo (run 0x3000 { State.reset with pc := 4092 }) (·.pc == 4096) = true ∧
    goesTo (step { State.reset with pc := 4096 }) (faulted .fetchBounds 0x1000 0x1000) = true := by decide

/-- T19, T22: the last address an instruction may stand at, and the first it may not. -/
theorem test_fetch_boundary :
    goesTo (run 0x6A01 { State.reset with pc := 4094 }) (fun t => t.v[10] == 1 && t.pc == 4096) = true ∧
    goesTo (step { State.reset with pc := 4095 }) (faulted .fetchBounds 0xFFF 0xFFF) = true := by decide

/-- T9, T123. -/
theorem test_decodeError :
    goesTo (run 0x0123 State.reset) (faulted .decodeError 0x200 0x0123) = true ∧
    goesTo (step State.reset) (faulted .decodeError 0x200 0) = true := by decide

/-! ### Load and arithmetic -/

/-- T36, T37. -/
theorem test_ldImm : goesTo (run 0x6A7F State.reset) (regsAre [(10, 0x7F)]) = true ∧
    goesTo (run 0x6F33 State.reset) (regsAre [(15, 0x33)]) = true := by decide

/-- T38. -/
theorem test_addImm : goesTo (run 0x7103 (regs [(1, 0xFE), (15, 0x55)])) (regsAre [(1, 0x01), (15, 0x55)]) = true := by decide

/-- T40. -/
theorem test_ldReg : goesTo (run 0x8120 (regs [(2, 0x55)])) (regsAre [(1, 0x55), (2, 0x55)]) = true := by decide

/-- T41. -/
theorem test_or :
    goesTo (run 0x8121 (regs [(1, 0xF0), (2, 0x0F), (15, 0x77)])) (regsAre [(1, 0xFF), (15, 0x77)]) = true := by decide

/-- T42. -/
theorem test_and :
    goesTo (run 0x8122 (regs [(1, 0xF3), (2, 0x3F), (15, 0x77)])) (regsAre [(1, 0x33), (15, 0x77)]) = true := by decide

/-- T43. -/
theorem test_xor :
    goesTo (run 0x8123 (regs [(1, 0xFF), (2, 0x0F), (15, 0x77)])) (regsAre [(1, 0xF0), (15, 0x77)]) = true := by decide

/-- T45, T46, E1. -/
theorem test_addReg :
    goesTo (run 0x8124 (regs [(1, 0x7F), (2, 0x80)])) (regsAre [(1, 0xFF), (15, 0)]) = true ∧
    goesTo (run 0x8114 (regs [(1, 0x80)])) (regsAre [(1, 0), (15, 1)]) = true := by decide

/-- T47, T49. -/
theorem test_addReg_flag_register :
    goesTo (run 0x8F24 (regs [(15, 0xF0), (2, 0x20)])) (regsAre [(15, 1)]) = true ∧
    goesTo (run 0x81F4 (regs [(1, 0xFF), (15, 1)])) (regsAre [(1, 0), (15, 1)]) = true := by decide

/-- T50, T52. -/
theorem test_sub :
    goesTo (run 0x8125 (regs [(1, 0x10), (2, 0x20)])) (regsAre [(1, 0xF0), (15, 0)]) = true ∧
    goesTo (run 0x8125 (regs [(1, 0x33), (2, 0x33)])) (regsAre [(1, 0), (15, 1)]) = true := by decide

/-- T54, T55. -/
theorem test_sub_flag_register :
    goesTo (run 0x8F25 (regs [(15, 3), (2, 5)])) (regsAre [(15, 0)]) = true ∧
    goesTo (run 0x81F5 (regs [(1, 0x10), (15, 1)])) (regsAre [(1, 0x0F), (15, 1)]) = true := by decide

/-- T61, E2. -/
theorem test_shr :
    goesTo (run 0x8126 (regs [(1, 0x04), (2, 0xFF)])) (regsAre [(1, 0x02), (2, 0xFF), (15, 0)]) = true ∧
    goesTo (run 0x8106 (regs [(1, 0x81)])) (regsAre [(1, 0x40), (15, 1)]) = true := by decide

/-- T62. -/
theorem test_shr_flag_register : goesTo (run 0x8F06 (regs [(15, 0xFF)])) (regsAre [(15, 0)]) = true := by decide

/-- T56, T57. -/
theorem test_subn :
    goesTo (run 0x8127 (regs [(1, 0x10), (2, 0x20)])) (regsAre [(1, 0x10), (15, 1)]) = true ∧
    goesTo (run 0x8127 (regs [(1, 0x20), (2, 0x10)])) (regsAre [(1, 0xF0), (15, 0)]) = true := by decide

/-- T64, T66. -/
theorem test_shl :
    goesTo (run 0x810E (regs [(1, 0x81)])) (regsAre [(1, 0x02), (15, 1)]) = true ∧
    goesTo (run 0x812E (regs [(1, 0x01), (2, 0xFF)])) (regsAre [(1, 0x02), (2, 0xFF), (15, 0)]) = true := by decide

/-- T67. -/
theorem test_shl_flag_register : goesTo (run 0x8F0E (regs [(15, 0xFF)])) (regsAre [(15, 0x02)]) = true := by decide

/-- T69: the masked random byte, for the free value 0xB7. -/
theorem test_rnd_mask : regsAre [(3, 0x07)] (maskedRandom 0xB7 3 0x0F State.reset) = true := by decide

/-- T69a: with mask 0 the free value does not matter, and it is consumed. -/
theorem test_rnd_zero_mask :
    ∃ t, run 0xC300 State.reset = .next t ∧ t.v[(3 : Reg)] = 0 ∧ t.draws = 1 ∧ t.pc = 0x202 := by
  refine ⟨_, rfl, ?_, rfl, by decide⟩
  exact (writeV_get _ _ _ _).trans ((if_pos rfl).trans BitVec.and_zero)

/-! ### Index register and memory -/

/-- T88. -/
theorem test_ldI : goesTo (run 0xAFFF State.reset) (fun t => t.i == 0x0FFF && t.pc == 0x202) = true := by decide

/-- T89, T93. -/
theorem test_addI :
    goesTo (run 0xF21E (regsI 0xFFE [(2, 5)])) (fun t => t.i == 0x1003 && regsAre [(15, 1)] t) = true ∧
    goesTo (run 0xF21E (regsI 0xFFFF [(2, 0xFF)])) (fun t => t.i == 0x00FE && regsAre [(15, 1)] t) = true := by decide

/-- T90, T94. -/
theorem test_addI_no_overflow :
    goesTo (run 0xF21E (regsI 0xFFF [(15, 1)])) (fun t => t.i == 0xFFF && regsAre [(15, 0)] t) = true ∧
    goesTo (run 0xFF1E (regsI 0x100 [(15, 0x10)])) (fun t => t.i == 0x110 && regsAre [(15, 0)] t) = true := by decide

/-- T95, T97. -/
theorem test_ldF :
    goesTo (run 0xF429 (regs [(4, 0x0A)])) (fun t => t.i == 0x32 && t.pc == 0x202) = true ∧
    goesTo (run 0xF429 (regs [(4, 0xFF)])) (fun t => t.i == 0x4FB) = true := by decide

/-- T103. -/
theorem test_ldB :
    goesTo (run 0xF033 (regsI 4093 [(0, 123)])) (fun t => t.mem.load 4093 3 == [1, 2, 3] && t.pc == 0x202) = true := by decide

/-- T104. -/
theorem test_ldB_outside :
    goesTo (run 0xF033 (regsI 4094 [(0, 123)]))
      (fun t => faulted .memBounds 0x200 0x1000 t && t.mem.load 4094 2 == [0, 0]) = true := by decide

/-- T105. -/
theorem test_stRegs :
    goesTo (run 0xF155 (regsI 0x400 [(0, 0x11), (1, 0x22), (2, 0x33)]))
      (fun t => t.mem.load 0x400 3 == [0x11, 0x22, 0] && t.i == 0x400 && t.pc == 0x202) = true := by decide

/-- T107. -/
theorem test_stRegs_outside :
    goesTo (run 0xF155 (regsI 4095 [(0, 0xAA), (1, 0xBB)]))
      (fun t => faulted .memBounds 0x200 0x1000 t && t.mem.read 4095 == 0) = true := by decide

/-- T108. -/
theorem test_ldRegs :
    goesTo (run 0xF165 (poke 0x400 [1, 2, 3] (regsI 0x400 [(2, 0x99)])))
      (fun t => regsAre [(0, 1), (1, 2), (2, 0x99)] t && t.i == 0x400) = true := by decide

/-- T110. -/
theorem test_ldRegs_outside :
    goesTo (run 0xF365 (regsI 4093 [(0, 7)])) (fun t => faulted .memBounds 0x200 0x1000 t && readV t 0 == 7) = true := by decide

/-- The canonical form: writing what an unlisted address reads as removes the entry. -/
theorem test_memory_canonical :
    Memory.write (Memory.write [] 5 7) 5 0 = [] ∧ Memory.wf [(5, 7), (3, 1)] = false ∧ Memory.wf [(5, 0)] = false := by decide

/-! ### Display -/

/-- T114. -/
theorem test_cls_sets_flag : goesTo (run 0x00E0 State.reset) (fun t => t.drawFlag && t.pc == 0x202) = true := by decide

/-- T113. -/
theorem test_cls_clears :
    goesTo (run 0x00E0 { State.reset with fb := flipCell (flipCell State.reset.fb 5) 2047 })
      (fun t => t.fb == State.reset.fb) = true := by decide +kernel

/-- E5: the wrap at the last cell; the seven wrapped pixels are on row 0. -/
theorem test_drw_wrap :
    goesTo (run 0xD011 (poke 0x300 [0xFF] (regsI 0x300 [(0, 63), (1, 31)])))
      (fun t => (List.finRange 2048).filter (cellAt t.fb) == [0, 1, 2, 3, 4, 5, 6, 2047] && regsAre [(15, 0)] t && t.drawFlag) = true := by
  decide +kernel

/-- T116: collisions. -/
theorem test_drw_collision :
    goesTo (run 0xD012 (poke 0x300 [0xF0, 0x0F] { regsI 0x300 [] with fb := flipCell (flipCell State.reset.fb 3) 70 }))
      (fun t => (List.finRange 2048).filter (cellAt t.fb) == [0, 1, 2, 68, 69, 71] && regsAre [(15, 1)] t) = true := by
  decide +kernel

/-! ### Keypad and timers -/

/-- T70, T71. -/
theorem test_skp :
    goesTo (run 0xE29E (setKey 10 true (regs [(2, 0x0A)]))) (·.pc == 0x204) = true ∧
    goesTo (run 0xE29E (regs [(2, 0x0A)])) (·.pc == 0x202) = true := by decide

/-- T72, T73. -/
theorem test_sknp :
    goesTo (run 0xE2A1 (setKey 10 true (regs [(2, 0x0A)]))) (·.pc == 0x202) = true ∧
    goesTo (run 0xE2A1 (regs [(2, 0x0A)])) (·.pc == 0x204) = true := by decide

/-- T74, T75. -/
theorem test_key_index :
    goesTo (run 0xE29E (regs [(2, 0x10)])) (faulted .keyIndex 0x200 0x10) = true ∧
    goesTo (run 0xE2A1 (regs [(2, 0xFF)])) (faulted .keyIndex 0x200 0xFF) = true := by decide

/-- T76. -/
theorem test_ldVxK_waits : goesTo (run 0xF30A (regs [(3, 0x55)])) (fun t => t.pc == 0x200 && readV t 3 == 0x55) = true := by
  decide

/-- T78, T79. -/
theorem test_ldVxK :
    goesTo (run 0xF30A (setKey 2 true (setKey 9 true (setKey 15 true State.reset)))) (regsAre [(3, 2)]) = true ∧
    goesTo (run 0xF30A (setKey 0 true (regs [(3, 9)]))) (regsAre [(3, 0)]) = true := by decide

/-- T80. -/
theorem test_ldVxDt :
    goesTo (run 0xF407 { State.reset with dt := 0x2A }) (fun t => regsAre [(4, 0x2A)] t && t.dt == 0x2A) = true := by decide

/-- T81. -/
theorem test_ldDtVx : goesTo (run 0xF415 (regs [(4, 0xFF)])) (fun t => t.dt == 0xFF && t.st == 0) = true := by decide

/-- T82, T83. -/
theorem test_ldStVx :
    goesTo (run 0xF418 (regs [(4, 1)])) (fun t => t.st == 1 && t.dt == 0 && (tickTimers t).1) = true ∧
    goesTo (run 0xF418 { regs [] with st := 5 }) (fun t => t.st == 0 && !(tickTimers t).1) = true := by decide

/-- T84, T85, T86. -/
theorem test_tickTimers :
    tickTimers State.reset = (false, State.reset) ∧
    tickTimers { State.reset with dt := 1, st := 1 } = (true, State.reset) ∧
    (tickTimers { State.reset with dt := 255, st := 3 }).1 = false ∧
    (tickTimers { State.reset with dt := 255, st := 3 }).2.dt = 254 := by decide

/-! ### Host operations -/

/-- T128, T129. -/
theorem test_loadProgram :
    (loadProgram [0x60, 0x01] { regs [(1, 7)] with pc := 0x222 }).2 =
      { regs [(1, 7)] with pc := 0x222, mem := [(0x200, 0x60), (0x201, 0x01)] } ∧
    loadProgram [] State.reset = (.ok, State.reset) := by decide

/-- T127, R27: glyph A stands at 50. -/
theorem test_loadFontSet : (loadFontSet State.reset).mem.load 50 5 = [0xF0, 0x90, 0xF0, 0x90, 0x90] := by decide +kernel

/-- A state with a DecodeError latched at 0x200 (T123). -/
def decodeFaulted : State := raise .decodeError 0 State.reset

/-- T87, T124, T125: operations while halted. -/
theorem test_while_halted :
    (tickTimers { decodeFaulted with dt := 4, st := 1 }).1 = true ∧
    (setKey 3 true decodeFaulted).keys[3] = true ∧
    (loadProgram [0x12, 0x00] decodeFaulted).1 = .ok ∧
    (loadProgram [0x12, 0x00] decodeFaulted).2.halted = true := by decide

/-- T126. -/
theorem test_powerOn : powerOn decodeFaulted = State.reset := by decide

/-- `withFetchWord` puts the high byte first, at `pc`. -/
theorem test_withFetchWord : (State.reset.withFetchWord 16 0x1234).mem = [(0x200, 0x12), (0x201, 0x34)] := by decide

/-- P4: `SET_KEY` and `CLEAR_DRAW_FLAG` (R23, R24). -/
theorem test_setKey_clearDrawFlag :
    (setKey 9 false (setKey 4 true (setKey 9 true State.reset))).keys[4] = true ∧
    (setKey 9 false (setKey 4 true (setKey 9 true State.reset))).keys[9] = false ∧
    (clearDrawFlag { State.reset with drawFlag := true }).drawFlag = false := by decide

/-- R192 with IPF = 3: three steps, then one tick. -/
theorem test_frameOps :
    frameOps { ipf := 3, ipfPos := by decide } = [.step, .step, .step, .tickTimers] := by decide

/-- R80, R81: what `STEP` answers while it runs, when it faults, and when it finds a fault. -/
theorem test_step_answers :
    stepResponse (jumpTo 0x300 State.reset) = .ok ∧ stepResponse decodeFaulted = .fault .decodeError := by decide

/-! ### Witnesses: inputs that meet the hypotheses of each obligation -/

theorem test_witness_DecodeInvertsEncode : (Instr.drw 15 0 15).wellFormed = true := by decide

theorem test_witness_EncodeInvertsDecode : decodeWord 0xDF0F = some (.drw 15 0 15) := by decide

theorem test_witness_DecoderAgreesWithOpcodeMap : decodeWord 0xFF65 = some (.ldRegs 15) := by decide

/-- A running state at the last address that can be fetched, with a jump to itself there. -/
def atEnd : State := { State.reset with pc := 4094 }.withFetchWord 16 0x1FFE

theorem test_witness_StepRunsDecodedInstruction : atEnd.halted = false ∧ atEnd.pc.toNat ≤ 4094 ∧
    decode [atEnd.mem.read atEnd.pc.toNat, atEnd.mem.read (atEnd.pc.toNat + 1)] = .ok (.jp 0xFFE, []) := by decide

theorem test_witness_InvalidWordRaisesDecodeError :
    State.reset.halted = false ∧ State.reset.pc.toNat ≤ 4094 ∧ decodeWord (fetchWord State.reset) = none := by decide

theorem test_witness_FetchOutsideRaisesFetchBounds :
    ({ State.reset with pc := 4095 } : State).halted = false ∧ 4094 < ({ State.reset with pc := 4095 } : State).pc.toNat := by
  decide

theorem test_witness_HaltedStepsChangeNothing : decodeFaulted.halted = true := by decide

theorem test_witness_EndedProgramIsFixedPoint : Ended atEnd := by
  refine ⟨by unfold Running; decide, by decide, 0xFFE, by decide, by decide⟩

theorem test_witness_CallPushesItsAddress :
    State.reset.sp.val < 16 ∧ ({ State.reset with sp := 15 } : State).sp.val < 16 := by decide

theorem test_witness_ReturnGoesBehindCall :
    ({ State.reset with sp := 1 } : State).sp.val = (0 : Fin 16).val + 1 ∧
    ({ State.reset with sp := 16 } : State).sp.val = (15 : Fin 16).val + 1 := by decide

theorem test_witness_StackEndsFault :
    ({ State.reset with sp := 16 } : State).sp.val = 16 ∧ State.reset.sp.val = 0 := by decide

/-- A call from the last free slot. -/
def calling : State := { State.reset with sp := 15 }

theorem test_witness_CallReturnRoundTrip :
    calling.sp.val < 16 ∧ ∃ s₁ u : State, exec (.call 0x300) calling = .next s₁ ∧ u.sp = s₁.sp ∧
      (∀ k : Fin 16, k.val = calling.sp.val → u.stack[k] = s₁.stack[k]) ∧ u.pc ≠ s₁.pc := by
  refine ⟨by decide, _, { jumpTo 0x400 { calling with stack := calling.stack.set 15 0x200, sp := 16 } with dt := 3 },
    exec_call_room (by decide), by decide, ?_, by decide⟩
  intro k hk
  rfl

theorem test_witness_ShiftsWithFlag : (0 : Reg) ≠ 15 ∧ (14 : Reg) ≠ 15 ∧ (15 : Reg) = 15 := by decide

theorem test_witness_DecimalDigitsStored :
    (regsI 4093 []).mem.wf = true ∧ (regsI 4093 []).i.toNat + 2 ≤ 4095 := by decide

theorem test_witness_RegistersStored :
    (regsI 4080 []).mem.wf = true ∧ (regsI 4080 []).i.toNat + (15 : Reg).val ≤ 4095 ∧
    (regsI 4095 []).i.toNat + (0 : Reg).val ≤ 4095 := by decide

theorem test_witness_RegistersLoaded : (regsI 4080 []).i.toNat + (15 : Reg).val ≤ 4095 := by decide

theorem test_witness_StoreThenLoadRestores :
    (regsI 4080 []).mem.wf = true ∧ (regsI 4080 []).i.toNat + (15 : Reg).val ≤ 4095 ∧
    ∃ s₁ : State, exec (.stRegs 15) (regsI 4080 []) = .next s₁ ∧ s₁.i = (regsI 4080 []).i ∧
      ∀ a, 4080 ≤ a → a ≤ 4095 → s₁.mem.read a = s₁.mem.read a :=
  ⟨by decide, by decide, _, rfl, by decide, fun _ _ _ => rfl⟩

theorem test_witness_AccessOutsideRaisesMemBounds :
    4095 < (regsI 4094 []).i.toNat + 2 ∧ 4095 < (regsI 4081 []).i.toNat + (15 : Reg).val ∧
    4095 < (regsI 4096 []).i.toNat + (0 : Reg).val ∧
    (1 ≤ 15 ∧ 4095 < (regsI 4082 []).i.toNat + 15 - 1) ∧ 4095 < (regsI 0xFFFF []).i.toNat + 2 := by decide

/-- Fx55 about to store over the instruction behind it (P5). -/
def selfModifying : State := { regsI 0x208 [(0, 0x6B), (1, 0x77)] with pc := 0x206 }

/-- The hypotheses hold for a store over both bytes behind the instruction (P5), over the second alone (it begins there), over the
first alone (it ends there). -/
theorem test_witness_NextFetchSeesStore :
    selfModifying.mem.wf = true ∧ selfModifying.i.toNat + 2 ≤ 4095 ∧ selfModifying.i.toNat + (1 : Reg).val ≤ 4095 ∧
    (selfModifying.pc + 2).toNat = selfModifying.i.toNat ∧
    ({ selfModifying with i := 0x209 } : State).i.toNat + 2 ≤ 4095 ∧
    ({ selfModifying with i := 0x207 } : State).i.toNat + (1 : Reg).val ≤ 4095 := by decide

/-- A store over one byte of the next instruction: Fx33 from its second byte, Fx55 up to its first. -/
theorem test_next_fetch_half_stored :
    goesTo (exec (.ldB 1) (poke 0x208 [0x6B, 0x05] { selfModifying with i := 0x209 })) (fun t => fetchWord t == 0x6B01) = true ∧
    goesTo (exec (.stRegs 1) (poke 0x208 [0x6B, 0x05] { selfModifying with i := 0x207 })) (fun t => fetchWord t == 0x7705) = true := by
  decide

/-- No rows at any I (T117), fifteen rows up to the last byte. -/
theorem test_witness_SpriteXorsCoveredCells :
    (0 < 16 ∧ (0 = 0 ∨ (regsI 0xFFFF []).i.toNat + 0 ≤ 4096)) ∧
    (15 < 16 ∧ (15 = 0 ∨ (regsI 4081 []).i.toNat + 15 ≤ 4096)) := by decide

/-- The state a one-row sprite at I = 4095 leaves. -/
def drawnOnce : State := advance (drawSprite 0 0 [0] (regsI 4095 []))

theorem test_witness_DrawTwiceRestores :
    (regsI 4095 []).i.toNat + 1 ≤ 4096 ∧ exec (.drw 0 1 1) (regsI 4095 []) = .next drawnOnce ∧
      drawnOnce.i = (regsI 4095 []).i ∧ drawnOnce.v[(0 : Reg)] = (regsI 4095 []).v[(0 : Reg)] ∧
      drawnOnce.v[(1 : Reg)] = (regsI 4095 []).v[(1 : Reg)] ∧
      ∀ r < 1, drawnOnce.mem.read (4095 + r) = (regsI 4095 []).mem.read (4095 + r) :=
  ⟨by decide, rfl, rfl, by decide, by decide, fun _ _ => rfl⟩

theorem test_witness_SpriteCellsAreDistinct : (List.replicate 15 (0xFF : Byte)).length ≤ 15 := by decide

theorem test_witness_KeySkips :
    (regs [(2, 15)]).v[(2 : Reg)].toNat = (15 : Fin 16).val ∧ 15 < (regs [(2, 16)]).v[(2 : Reg)].toNat := by decide

theorem test_witness_WaitForKeyPolls :
    ((setKey 15 true State.reset).keys[(15 : Fin 16)] = true ∧
      ∀ j : Fin 16, j < 15 → (setKey 15 true State.reset).keys[j] = false) ∧
    ∀ k : Fin 16, State.reset.keys[k] = false := by decide

/-- An Fx15, a step that faults, a tick. -/
theorem test_witness_DelayTimerRead :
    ∃ s₁ u : State, exec (.ldDtVx 4) (regs [(4, 255)]) = .next s₁ ∧ TicksSince .ldDtVx s₁ 1 u ∧ u.dt = 254 := by
  refine ⟨_, _, rfl, .tick (.other .start (op := .step) (by decide) (by decide) (fun _ x h => ?_) rfl) rfl, by decide⟩
  have : decodeWord 0 = some (.ldDtVx x) := (fetchInstr_run_iff.mp h).2.2
  exact absurd this (by rw [show decodeWord 0 = none by decide]; simp)

/-- A tick, then a key event: one tick since the sound timer held 2. -/
theorem test_witness_TimersTick :
    ∃ u : State, TicksSince .ldStVx { State.reset with st := 2 } 1 u ∧ u.st = 1 :=
  ⟨_, .other (.tick .start rfl) (op := .setKey 3 true) (by decide) (by decide) (fun h => absurd h (by decide)) rfl, by decide⟩

theorem test_witness_InitializeWritesFont : State.reset.mem.wf = true ∧ 0 < Config.font.length := by decide

theorem test_witness_LoadProgramCopiesOrRejects :
    State.reset.mem.wf = true ∧ 3584 < (List.replicate 3585 (0xAA : Byte)).length ∧
    (List.replicate 3584 (0xAA : Byte)).length ≤ 3584 := by
  exact ⟨by decide, by rw [List.length_replicate]; decide, by rw [List.length_replicate]⟩

theorem test_witness_FontAndProgramCommute : State.reset.mem.wf = true := by decide

theorem test_witness_BootLoadsFontAndProgram :
    (List.replicate 3584 (0xAA : Byte)).length ≤ 3584 ∧ 3584 < (List.replicate 3585 (0xAA : Byte)).length := by
  rw [List.length_replicate, List.length_replicate]
  decide

theorem test_witness_FrameIsStepsThenOneTick : 0 < ({ ipf := 1, ipfPos := by decide } : Config.Driver).ipf := by decide

theorem test_witness_OnlyPowerOnClearsFault :
    decodeFaulted.halted = true ∧ HostOp.tickTimers ≠ .powerOn ∧
    ∃ r t, perform .tickTimers decodeFaulted = .next (r, t) := ⟨by decide, by decide, _, _, rfl⟩

theorem test_witness_FaultsAreCompleteAndPrecise :
    State.reset.halted = false ∧ stepFault State.reset = some (.decodeError, 0) ∧ stepFault atEnd = none := by decide

theorem test_witness_OnlyNamedRegistersChange :
    (∃ t, exec (.addReg 14 2) State.reset = .next t) ∧ writesReg 13 (.addReg 14 2) = false := ⟨⟨_, rfl⟩, by decide⟩

theorem test_witness_OnlyNamedPartsChange :
    (∃ t, exec (.ldI 0x300) State.reset = .next t) ∧ Part.v ≠ .pc ∧ Part.v ∉ mayWrite (.ldI 0x300) :=
  ⟨⟨_, rfl⟩, by decide, by decide⟩

theorem test_witness_OnlyStoredBytesChange :
    (regsI 0x300 []).mem.wf = true ∧ (∃ t, exec (.stRegs 3) (regsI 0x300 []) = .next t) ∧
    (regsI 0x300 []).i.toNat + storeCount (.stRegs 3) ≤ 0x304 ∧ 0x2FF < (regsI 0x300 []).i.toNat :=
  ⟨by decide, ⟨_, rfl⟩, by decide, by decide⟩

theorem test_witness_KeypadReachesOnlyKeyInstructions :
    readsKeys (.jp 0x300) = false ∧ ∃ t, exec (.jp 0x300) State.reset = .next t := ⟨by decide, _, rfl⟩

/-- Both clauses: a jump consumes no free value, Cxnn one; so does an Fx55 whose last address needs 17 bits. -/
theorem test_witness_FreeValuesReachOnlyTheirConsumers :
    (∃ t, exec (.jp 0x300) State.reset = .next t ∧ t.draws = State.reset.draws) ∧
    (∃ t, exec (.rnd 1 0xFF) State.reset = .next t ∧ t.draws ≠ State.reset.draws) ∧
    (∃ t, exec (.stRegs 1) (regsI 0xFFFF []) = .next t ∧ t.draws ≠ (regsI 0xFFFF []).draws) := by
  refine ⟨⟨_, rfl, rfl⟩, ⟨_, rfl, ?_⟩, ⟨_, rfl, ?_⟩⟩
  · exact Nat.succ_ne_zero 0
  · decide

/-- A state inside a subroutine, with memory in use. -/
def inSubroutine : State := poke 0x300 [1, 2] { State.reset with pc := 0x10FE, sp := 1, stack := State.reset.stack.set 0 4094 }

theorem test_witness_StepKeepsInvariant : Inv inSubroutine ∧ ∃ t, step inSubroutine = .next t := by
  refine ⟨⟨by decide, by decide, by decide, fun _ => by decide, fun h => absurd h (by decide)⟩, _, rfl⟩

theorem test_witness_EveryOperationKeepsInvariant :
    Inv inSubroutine ∧ perform (.setKey 3 true) inSubroutine = .next (.none, setKey 3 true inSubroutine) :=
  ⟨test_witness_StepKeepsInvariant.1, rfl⟩

theorem test_witness_ReachableStatesMeetInvariant : Reachable (setKey 3 true State.reset) :=
  .perform (op := .setKey 3 true) (r := .none) .reset rfl

end Sys2Proof.Tests
end

section
/-! PROOFS. Flow of control: the jump 1nnn (R86) and the four register skips (R88 to R91). -/

namespace Sys2Proof.Proofs

open Sys2Proof.Machine Sys2Proof.Claims

/-! ### What a jump and a skip do to the state -/

/-- Zero-extending an address keeps its number (R7). -/
@[simp] theorem toNat_zextAddr (a : Addr) : (zextAddr a).toNat = a.toNat :=
  BitVec.toNat_setWidth_of_le (by decide)

theorem sameBut_pc_jumpTo (w : Word) (s : State) : SameBut [.pc] s (jumpTo w s) := by
  intro p hp
  cases p
  case pc => exact absurd (List.mem_singleton.mpr rfl) hp
  case mem => exact fun _ => rfl
  all_goals simp [Part.same]

theorem skipIf_eq_jumpTo (c : Bool) (s : State) : skipIf c s = jumpTo (s.pc + if c then 4 else 2) s := rfl

theorem sameBut_pc_skipIf (c : Bool) (s : State) : SameBut [.pc] s (skipIf c s) := by
  rw [skipIf_eq_jumpTo]
  exact sameBut_pc_jumpTo _ s

/-- A skip on a computed test is a skip on the condition the test decides. -/
theorem skips_skipIf {c : Bool} {P : Prop} (hc : c = true ↔ P) (s : State) : Skips P s (skipIf c s) := by
  refine ⟨?_, sameBut_pc_skipIf c s⟩
  cases c with
  | true => exact .inl ⟨hc.mp rfl, rfl⟩
  | false => exact .inr ⟨fun hP => Bool.false_ne_true (hc.mpr hP), rfl⟩

/-! ### The meanings of the instructions -/

theorem exec_jp (nnn : Addr) (s : State) : exec (.jp nnn) s = .next (jumpTo (zextAddr nnn) s) := rfl

theorem exec_seImm (x : Reg) (nn : Byte) (s : State) :
    exec (.seImm x nn) s = .next (skipIf (s.v[x] == nn) s) := rfl

theorem exec_sneImm (x : Reg) (nn : Byte) (s : State) :
    exec (.sneImm x nn) s = .next (skipIf (s.v[x] != nn) s) := rfl

theorem exec_seReg (x y : Reg) (s : State) : exec (.seReg x y) s = .next (skipIf (s.v[x] == s.v[y]) s) := rfl

theorem exec_sneReg (x y : Reg) (s : State) : exec (.sneReg x y) s = .next (skipIf (s.v[x] != s.v[y]) s) := rfl

/-! ### The statements -/

/-- Settles O10: the meaning is one `jumpTo`, whose target keeps the number `nnn`. -/
theorem jumpSetsPc : Obligations.JumpSetsPc := by
  intro nnn s
  exact ⟨_, exec_jp nnn s, by simp, sameBut_pc_jumpTo _ s⟩

/-- Settles O17: each of the four is one `skipIf` whose test decides the rule's condition. -/
theorem registerSkips : Obligations.RegisterSkips := by
  intro x y nn s
  refine ⟨?seImm, ?sneImm, ?seReg, ?sneReg⟩
  case seImm => exact ⟨_, exec_seImm x nn s, skips_skipIf beq_iff_eq s⟩
  case sneImm => exact ⟨_, exec_sneImm x nn s, skips_skipIf bne_iff_ne s⟩
  case seReg => exact ⟨_, exec_seReg x y s, skips_skipIf beq_iff_eq s⟩
  case sneReg => exact ⟨_, exec_sneReg x y s, skips_skipIf bne_iff_ne s⟩

end Sys2Proof.Proofs
end

section
/-! PROOFS. The load and arithmetic rows that write one register and no flag: 6xnn, 7xnn, 8xy0 to 8xy3 (R101 to R106). -/

namespace Sys2Proof.Proofs

open Sys2Proof.Machine Sys2Proof.Claims

/-! ### What a register write and an advance do to the state -/

theorem sameBut_v_pc_advance_writeV (s : State) (x : Reg) (b : Byte) :
    SameBut [.v, .pc] s (advance (writeV s x b)) := by
  intro p hp
  cases p
  case v => exact absurd List.mem_cons_self hp
  case pc => exact absurd (List.mem_cons_of_mem _ (List.mem_singleton.mpr rfl)) hp
  case mem => exact fun _ => rfl
  all_goals simp [Part.same]

/-- A register write followed by an advance writes that register alone, VF among the registers it keeps. -/
theorem writesOnly_advance_writeV (s : State) (x : Reg) (b : Byte) :
    WritesOnly x b s (advance (writeV s x b)) := by
  refine ⟨?value, ?others, rfl, sameBut_v_pc_advance_writeV s x b⟩
  case value => exact (writeV_get s x x b).trans (if_pos rfl)
  case others =>
    intro r hr
    exact (writeV_get s x r b).trans (if_neg hr)

/-- The machine's addition of two bytes is R102's sum modulo 256. -/
theorem ofNat_add_mod_256 (a b : Byte) : BitVec.ofNat 8 ((a.toNat + b.toNat) % 256) = a + b :=
  BitVec.eq_of_toNat_eq (by simp)

/-! ### The meanings of the instructions -/

theorem exec_ldImm (x : Reg) (nn : Byte) (s : State) : exec (.ldImm x nn) s = .next (advance (writeV s x nn)) := rfl

theorem exec_addImm (x : Reg) (nn : Byte) (s : State) :
    exec (.addImm x nn) s = .next (advance (writeV s x (s.v[x] + nn))) := rfl

theorem exec_ldReg (x y : Reg) (s : State) : exec (.ldReg x y) s = .next (advance (writeV s x s.v[y])) := rfl

theorem exec_orReg (x y : Reg) (s : State) :
    exec (.orReg x y) s = .next (advance (writeV s x (s.v[x] ||| s.v[y]))) := rfl

theorem exec_andReg (x y : Reg) (s : State) :
    exec (.andReg x y) s = .next (advance (writeV s x (s.v[x] &&& s.v[y]))) := rfl

theorem exec_xorReg (x y : Reg) (s : State) :
    exec (.xorReg x y) s = .next (advance (writeV s x (s.v[x] ^^^ s.v[y]))) := rfl

/-! ### The statement -/

/-- Settles O18: each of the six is one register write and an advance; for 7xnn the byte written is the sum modulo 256. -/
theorem plainRegisterWrites : Obligations.PlainRegisterWrites := by
  intro x y nn s
  refine ⟨?ldImm, ?addImm, ?ldReg, ?orReg, ?andReg, ?xorReg⟩
  case ldImm => exact ⟨_, exec_ldImm x nn s, writesOnly_advance_writeV s x _⟩
  case addImm =>
    rw [ofNat_add_mod_256]
    exact ⟨_, exec_addImm x nn s, writesOnly_advance_writeV s x _⟩
  case ldReg => exact ⟨_, exec_ldReg x y s, writesOnly_advance_writeV s x _⟩
  case orReg => exact ⟨_, exec_orReg x y s, writesOnly_advance_writeV s x _⟩
  case andReg => exact ⟨_, exec_andReg x y s, writesOnly_advance_writeV s x _⟩
  case xorReg => exact ⟨_, exec_xorReg x y s, writesOnly_advance_writeV s x _⟩

end Sys2Proof.Proofs
end

section
/-! PROOFS. The index register: the load Annn (R120). -/

namespace Sys2Proof.Proofs

open Sys2Proof.Machine Sys2Proof.Claims

/-! ### What an index write and an advance do to the state -/

theorem sameBut_i_pc_advance_writeIndex (w : Word) (s : State) :
    SameBut [.i, .pc] s (advance (writeIndex w s)) := by
  intro p hp
  cases p
  case i => exact absurd List.mem_cons_self hp
  case pc => exact absurd (List.mem_cons_of_mem _ (List.mem_singleton.mpr rfl)) hp
  case mem => exact fun _ => rfl
  all_goals simp [Part.same]

/-! ### The meaning of the instruction -/

theorem exec_ldI (nnn : Addr) (s : State) : exec (.ldI nnn) s = .next (advance (writeIndex (zextAddr nnn) s)) := rfl

/-! ### The statement -/

/-- Settles O22: the meaning is one index write and an advance, and the word written keeps the number `nnn`. -/
theorem loadIndexImmediate : Obligations.LoadIndexImmediate := by
  intro nnn s
  exact ⟨_, exec_ldI nnn s, by simp, rfl, sameBut_i_pc_advance_writeIndex _ s⟩

end Sys2Proof.Proofs
end

section
/-! PROOFS. The timers: Fx07, Fx15 and Fx18 (R144 to R146), and what the host's operations leave in the timers (R165, R166). -/

namespace Sys2Proof.Proofs

open Sys2Proof.Machine Sys2Proof.Claims

/-! ### The meanings of the instructions -/

theorem exec_ldVxDt (x : Reg) (s : State) : exec (.ldVxDt x) s = .next (advance (writeV s x s.dt)) := rfl

theorem exec_ldDtVx (x : Reg) (s : State) : exec (.ldDtVx x) s = .next (advance { s with dt := s.v[x] }) := rfl

theorem exec_ldStVx (x : Reg) (s : State) : exec (.ldStVx x) s = .next (advance { s with st := s.v[x] }) := rfl

/-! ### What a timer write and an advance do to the state -/

theorem sameBut_dt_pc_advance (b : Byte) (s : State) : SameBut [.dt, .pc] s (advance { s with dt := b }) := by
  intro p hp
  cases p
  case dt => exact absurd List.mem_cons_self hp
  case pc => exact absurd (List.mem_cons_of_mem _ (List.mem_singleton.mpr rfl)) hp
  case mem => exact fun _ => rfl
  all_goals simp [Part.same]

theorem sameBut_st_pc_advance (b : Byte) (s : State) : SameBut [.st, .pc] s (advance { s with st := b }) := by
  intro p hp
  cases p
  case st => exact absurd List.mem_cons_self hp
  case pc => exact absurd (List.mem_cons_of_mem _ (List.mem_singleton.mpr rfl)) hp
  case mem => exact fun _ => rfl
  all_goals simp [Part.same]

/-! ### Which operations leave both timers -/

/-- Both timers are the same in two states. -/
def SameTimers (s t : State) : Prop := t.dt = s.dt ∧ t.st = s.st

theorem sameTimers_refl (s : State) : SameTimers s s := ⟨rfl, rfl⟩

theorem sameTimers_raise (c : FaultCode) (n : Nat) (s : State) : SameTimers s (raise c n s) :=
  ⟨raise_dt c n s, raise_st c n s⟩

/-- An access of bytes from `I` leaves the timers if its effect does. -/
theorem sameTimers_withSpan {n : Nat} {f : State → State} {s : State} (hf : SameTimers s (f s)) :
    SameTimers s (withSpan n f s) := by
  cases ho : spanOutside n s with
  | true =>
    rw [withSpan_outside ho]
    exact sameTimers_raise _ _ s
  | false =>
    rw [withSpan_inside ho]
    exact hf

theorem sameTimers_skipOnKey (x : Reg) (b : Bool) (s : State) : SameTimers s (skipOnKey x b s) := by
  obtain ⟨_, h⟩ | ⟨_, h⟩ := skipOnKey_cases x b s <;> rw [h]
  · exact sameTimers_raise _ _ s
  · exact ⟨skipIf_dt _ s, skipIf_st _ s⟩

theorem sameTimers_loadProgram (bytes : List Byte) (s : State) : SameTimers s (loadProgram bytes s).2 := by
  unfold loadProgram
  split
  · exact ⟨rfl, rfl⟩
  · exact sameTimers_refl s

/-- Every instruction but Fx15 and Fx18 leaves both timers. -/
theorem sameTimers_exec {i : Instr} {s t : State} (h : exec i s = .next t)
    (hdt : ∀ x, i ≠ .ldDtVx x) (hst : ∀ x, i ≠ .ldStVx x) : SameTimers s t := by
  cases i
  case ldDtVx x => exact absurd rfl (hdt x)
  case ldStVx x => exact absurd rfl (hst x)
  case ret =>
    by_cases hsp : s.sp.val = 0
    · obtain rfl := Host.Outcome.next.inj ((exec_ret_empty hsp).symm.trans h)
      exact sameTimers_raise _ _ s
    · obtain rfl := Host.Outcome.next.inj ((exec_ret_some hsp).symm.trans h)
      exact ⟨rfl, rfl⟩
  case call nnn =>
    by_cases hsp : s.sp.val = 16
    · obtain rfl := Host.Outcome.next.inj ((exec_call_full hsp).symm.trans h)
      exact sameTimers_raise _ _ s
    · obtain rfl := Host.Outcome.next.inj ((exec_call_room (by omega)).symm.trans h)
      exact ⟨rfl, rfl⟩
  case ldVxK x =>
    cases hk : firstPressed s.keys with
    | none =>
      obtain rfl := Host.Outcome.next.inj ((exec_ldVxK_none hk).symm.trans h)
      exact sameTimers_refl s
    | some k =>
      obtain rfl := Host.Outcome.next.inj ((exec_ldVxK_some hk).symm.trans h)
      exact ⟨rfl, rfl⟩
  all_goals obtain rfl := Host.Outcome.next.inj h
  case skp x => exact sameTimers_skipOnKey x true s
  case sknp x => exact sameTimers_skipOnKey x false s
  case drw => exact sameTimers_withSpan ⟨drawSprite_dt .., drawSprite_st ..⟩
  case ldB => exact sameTimers_withSpan ⟨storeAtIndex_dt .., storeAtIndex_st ..⟩
  case stRegs => exact sameTimers_withSpan ⟨storeAtIndex_dt .., storeAtIndex_st ..⟩
  case ldRegs => exact sameTimers_withSpan ⟨loadAtIndex_dt .., loadAtIndex_st ..⟩
  all_goals exact ⟨rfl, rfl⟩

/-- Every instruction but Fx15 leaves the delay timer. -/
theorem dt_exec {i : Instr} {s t : State} (h : exec i s = .next t) (hdt : ∀ x, i ≠ .ldDtVx x) : t.dt = s.dt := by
  by_cases hst : ∃ x, i = .ldStVx x
  · obtain ⟨x, rfl⟩ := hst
    obtain rfl := Host.Outcome.next.inj ((exec_ldStVx x s).symm.trans h)
    rfl
  · exact (sameTimers_exec h hdt (not_exists.mp hst)).1

/-- A step leaves both timers unless it runs an instruction. -/
theorem step_sameTimers_or_run {s t : State} (h : step s = .next t) :
    SameTimers s t ∨ ∃ i, fetchInstr s = .run i ∧ exec i s = .next t := by
  obtain ⟨-, hs⟩ | ⟨-, -, hs⟩ | ⟨-, -, -, hs⟩ | ⟨hh, hp, i, hd, hs⟩ := step_cases s <;> rw [hs] at h
  · obtain rfl := Host.Outcome.next.inj h
    exact .inl (sameTimers_refl s)
  · obtain rfl := Host.Outcome.next.inj h
    exact .inl (sameTimers_raise _ _ s)
  · obtain rfl := Host.Outcome.next.inj h
    exact .inl (sameTimers_raise _ _ s)
  · exact .inr ⟨i, fetchInstr_run_iff.mpr ⟨hh, hp, hd⟩, h⟩

/-- A host operation other than a tick and `POWER_ON` leaves both timers unless it is a step that runs an instruction. -/
theorem perform_sameTimers_or_run {op : HostOp} {s t : State} {r : Response} (h : perform op s = .next (r, t))
    (htick : op ≠ .tickTimers) (hpower : op ≠ .powerOn) :
    SameTimers s t ∨ (op = .step ∧ ∃ i, fetchInstr s = .run i ∧ exec i s = .next t) := by
  cases op
  case powerOn => exact absurd rfl hpower
  case tickTimers => exact absurd rfl htick
  case step => exact (step_sameTimers_or_run (step_of_perform h)).imp_right fun hrun => ⟨rfl, hrun⟩
  all_goals
    obtain ⟨-, rfl⟩ := Prod.mk.inj (Host.Outcome.next.inj h)
    left
  case loadFontSet => exact ⟨loadFontSet_dt s, loadFontSet_st s⟩
  case loadProgram bytes => exact sameTimers_loadProgram bytes s
  case setKey k b => exact ⟨setKey_dt k b s, setKey_st k b s⟩
  case clearDrawFlag => exact ⟨clearDrawFlag_dt s, clearDrawFlag_st s⟩

/-! ### What the ticks since a timer was written leave in it -/

theorem toNat_countDown (b : Byte) : (countDown b).toNat = b.toNat - 1 := by
  unfold countDown
  split <;> bv_omega

/-- A timer that a tick counts down and that no instruction but its setter writes has lost one for each tick, floored at 0. -/
theorem toNat_timer_of_ticksSince {timer : State → Byte} {setter : Reg → Instr} {s u : State} {k : Nat}
    (htick : ∀ t, timer (tickTimers t).2 = countDown (timer t))
    (hsame : ∀ {t t'}, SameTimers t t' → timer t' = timer t)
    (hexec : ∀ {i t t'}, exec i t = .next t' → (∀ x, i ≠ setter x) → timer t' = timer t)
    (hu : TicksSince setter s k u) : (timer u).toNat = (timer s).toNat - k := by
  induction hu with
  | start => rfl
  | @tick k t u r _ h ih =>
    obtain ⟨-, rfl⟩ := Prod.mk.inj (Host.Outcome.next.inj h)
    rw [htick, toNat_countDown, ih]
    omega
  | @other k t u op r _ hop hpower hsetter h ih =>
    have hkept : timer u = timer t := by
      obtain hst | ⟨rfl, i, hi, hrun⟩ := perform_sameTimers_or_run h hop hpower
      · exact hsame hst
      · exact hexec hrun fun x hx => hsetter rfl x (hx ▸ hi)
    rw [hkept, ih]

/-! ### The statements -/

/-- Settles O37: each of the two is one timer write and an advance. -/
theorem timersWritten : Obligations.TimersWritten := by
  intro x s
  exact ⟨⟨_, exec_ldDtVx x s, rfl, rfl, sameBut_dt_pc_advance _ s⟩,
    ⟨_, exec_ldStVx x s, rfl, rfl, sameBut_st_pc_advance _ s⟩⟩

/-- Settles O38: Fx07 is one register write of the delay timer, which has lost one for each tick since the Fx15. -/
theorem delayTimerRead : Obligations.DelayTimerRead := by
  have hread : ∀ (x : Reg) (s : State), ∃ t, exec (.ldVxDt x) s = .next t ∧ WritesOnly x s.dt s t :=
    fun x s => ⟨_, exec_ldVxDt x s, writesOnly_advance_writeV s x s.dt⟩
  refine ⟨hread, fun x z k s s₁ u hset hu => ?_⟩
  obtain rfl := Host.Outcome.next.inj ((exec_ldDtVx z s).symm.trans hset)
  obtain ⟨t, ht, hx, -⟩ := hread x u
  refine ⟨t, ht, ?_⟩
  rw [hx]
  exact toNat_timer_of_ticksSince tickTimers_dt And.left dt_exec hu

end Sys2Proof.Proofs
end

section
/-! PROOFS. `TICK_TIMERS`: the two timers and the beep (R165 to R167). -/

namespace Sys2Proof.Proofs

open Sys2Proof.Machine Sys2Proof.Claims

/-! ### What one tick answers and changes -/

/-- A tick beeps exactly if the sound timer's number is 1 (R166). -/
theorem perform_tickTimers (s : State) :
    perform .tickTimers s = .next (.beep (decide (s.st.toNat = 1)), (tickTimers s).2) := by
  have hbeep : (s.st == 1) = decide (s.st.toNat = 1) := by
    rw [beq_eq_decide]
    exact decide_eq_decide.mpr BitVec.toNat_inj.symm
  rw [← hbeep]
  rfl

theorem sameBut_dt_st_tickTimers (s : State) : SameBut [.dt, .st] s (tickTimers s).2 := by
  intro p hp
  cases p
  case dt => exact absurd List.mem_cons_self hp
  case st => exact absurd (List.mem_cons_of_mem _ (List.mem_singleton.mpr rfl)) hp
  case mem => exact fun _ => rfl
  all_goals simp [Part.same]

/-! ### What the ticks since an Fx18 leave in the sound timer -/

/-- Every instruction but Fx18 leaves the sound timer. -/
theorem st_exec {i : Instr} {s t : State} (h : exec i s = .next t) (hst : ∀ x, i ≠ .ldStVx x) : t.st = s.st := by
  by_cases hdt : ∃ x, i = .ldDtVx x
  · obtain ⟨x, rfl⟩ := hdt
    obtain rfl := Host.Outcome.next.inj ((exec_ldDtVx x s).symm.trans h)
    rfl
  · exact (sameTimers_exec h (not_exists.mp hdt) hst).2

theorem toNat_st_of_ticksSince {s u : State} {k : Nat} (hu : TicksSince .ldStVx s k u) :
    u.st.toNat = s.st.toNat - k :=
  toNat_timer_of_ticksSince tickTimers_st And.right st_exec hu

/-! ### The statement -/

/-- Settles O39: a tick is two `countDown`s, and after `k` ticks without an Fx18 the sound timer's number is 1 exactly if it began
at `k + 1`. -/
theorem timersTick : Obligations.TimersTick := by
  intro s
  refine ⟨⟨_, perform_tickTimers s, toNat_countDown s.dt, toNat_countDown s.st, sameBut_dt_st_tickTimers s⟩,
    fun k u hu => ⟨(tickTimers u).2, ?_⟩⟩
  have hlast : u.st.toNat = 1 ↔ s.st.toNat = k + 1 := by
    rw [toNat_st_of_ticksSince hu]
    omega
  rw [perform_tickTimers, decide_eq_decide.mpr hlast]

end Sys2Proof.Proofs
end

section
/-! PROOFS. `INITIALIZE`: the font in memory, its frame and its idempotence (R181). -/

namespace Sys2Proof.Proofs

open Sys2Proof.Machine Sys2Proof.Claims

/-! ### A store repeated -/

/-- Storing the same bytes at the same place again changes nothing: both memories are canonical and read alike. -/
theorem store_store_same {m : Memory} {a : Nat} {bs : List Byte} (hm : m.wf = true)
    (h : a + bs.length ≤ Config.memBytes) : (m.store a bs).store a bs = m.store a bs := by
  have hwf : (m.store a bs).wf = true := Memory.wf_store hm h
  refine Memory.eq_of_read_eq (Memory.wf_store hwf h) hwf fun a' => ?_
  rw [Memory.read_store hwf h]
  split
  case isTrue hin => rw [Memory.read_store hm h, dif_pos hin]
  case isFalse => rfl

/-! ### What loading the font leaves -/

theorem font_fits_memory : 0 + Config.font.length ≤ Config.memBytes := by decide

theorem loadFontSet_eq (s : State) : loadFontSet s = { s with mem := s.mem.store 0 Config.font } := rfl

theorem read_loadFontSet_font {s : State} (hm : s.mem.wf = true) {a : Nat} (h : a < Config.font.length) :
    (loadFontSet s).mem.read a = Config.font[a] := by
  rw [loadFontSet_mem, Memory.read_store hm font_fits_memory]
  exact dif_pos ⟨Nat.zero_le a, h⟩

theorem read_loadFontSet_above {s : State} (hm : s.mem.wf = true) {a : Nat} (h : 80 ≤ a) :
    (loadFontSet s).mem.read a = s.mem.read a := by
  have habove : 0 + Config.font.length ≤ a := by rwa [length_font, Nat.zero_add]
  rw [loadFontSet_mem]
  exact Memory.read_store_outside hm font_fits_memory (.inr habove)

theorem sameBut_mem_loadFontSet (s : State) : SameBut [.mem] s (loadFontSet s) := by
  intro p hp
  cases p
  case mem => exact absurd List.mem_cons_self hp
  all_goals simp [Part.same]

theorem loadFontSet_idempotent {s : State} (hm : s.mem.wf = true) :
    loadFontSet (loadFontSet s) = loadFontSet s := by
  simp only [loadFontSet_eq, store_store_same hm font_fits_memory]

theorem perform_loadFontSet (s : State) : perform .loadFontSet s = .next (.none, loadFontSet s) := rfl

/-! ### The statement -/

/-- Settles O41: the operation is one store of the font, which reads back at 0 to 79, keeps the rest, and repeats to itself. -/
theorem initializeWritesFont : Obligations.InitializeWritesFont := by
  intro s hm
  refine ⟨loadFontSet s, perform_loadFontSet s, fun _ => read_loadFontSet_font hm, length_font,
    fun _ => read_loadFontSet_above hm, wf_loadFontSet hm, sameBut_mem_loadFontSet s, ?again⟩
  rw [perform_loadFontSet, loadFontSet_idempotent hm]

end Sys2Proof.Proofs
end

section
/-! PROOFS. Encoding: the decoder and the encoder undo each other, and the case tree agrees with the opcode map (R61 to R68). -/

namespace Sys2Proof.Proofs

open Sys2Proof.Machine Sys2Proof.Claims

/-! ### Decoding an encoded instruction -/

/-- The word of a well-formed instruction decodes to it: the fields of each format read back what was put there. -/
theorem decodeWord_encode {i : Instr} (h : i.wellFormed = true) : decodeWord (encode i) = some i := by
  cases i
  case cls => rfl
  case ret => rfl
  case jp | call | ldI | jpV0 => simp [encode, decodeWord, top_nnnForm, nnn_nnnForm]
  case seImm | sneImm | ldImm | addImm | rnd => simp [encode, decodeWord, top_xnnForm, x_xnnForm, nn_xnnForm]
  case seReg | sneReg => simp [encode, decodeWord, top_xynForm, x_xynForm, y_xynForm, n_xynForm]
  case ldReg | orReg | andReg | xorReg | addReg | sub | shr | subn | shl =>
    simp [encode, decodeWord, decodeArith, top_xynForm, x_xynForm, y_xynForm, n_xynForm]
  case drw x y n =>
    have hn : n < 16 := of_decide_eq_true h
    simp [encode, decodeWord, top_xynForm, x_xynForm, y_xynForm, n_xynForm, Nat.mod_eq_of_lt hn]
  case skp | sknp => simp [encode, decodeWord, decodeKey, top_xnnForm, x_xnnForm, nn_xnnForm]
  case ldVxDt | ldVxK | ldDtVx | ldStVx | addI | ldF | ldB | stRegs | ldRegs =>
    simp [encode, decodeWord, decodeMisc, top_xnnForm, x_xnnForm, nn_xnnForm]

/-- Settles O2: the two bytes join to the instruction's word, which decodes to the instruction. -/
theorem decodeInvertsEncode : Obligations.DecodeInvertsEncode := by
  intro i rest h
  simp [encodeBytes, decode, join_halves, decodeWord_encode h]

/-! ### Encoding a decoded instruction -/

theorem nnnForm_fields (op : Word) : nnnForm (fieldTop op) (fieldNNN op) = op := by
  apply BitVec.eq_of_getLsbD_eq
  intro k hk
  simp only [nnnForm, fieldTop, fieldNNN, BitVec.getLsbD_append, BitVec.getLsbD_extractLsb']
  by_cases h : k < 12
  · simp [h]
  · simp [h, show k - 12 < 4 by omega, show 12 + (k - 12) = k by omega]

theorem regBits_toFin (b : BitVec 4) : regBits b.toFin = b := rfl

theorem regBits_fields (op : Word) : fieldTop op ++ regBits (fieldX op) = highByte op := by
  apply BitVec.eq_of_getLsbD_eq
  intro k hk
  simp only [fieldTop, fieldX, regBits_toFin, highByte, BitVec.getLsbD_append, BitVec.getLsbD_extractLsb']
  by_cases h : k < 4
  · simp [h, hk]
  · simp [h, hk, show k - 4 < 4 by omega, show 12 + (k - 4) = 8 + k by omega]

theorem xnnForm_fields (op : Word) : xnnForm (fieldTop op) (fieldX op) (fieldNN op) = op := by
  unfold xnnForm
  rw [regBits_fields]
  exact join_halves op

theorem xynForm_fields (op : Word) : xynForm (fieldTop op) (fieldX op) (fieldY op) (fieldN op) = op := by
  unfold xynForm
  rw [regBits_fields]
  apply BitVec.eq_of_getLsbD_eq
  intro k hk
  simp only [fieldY, fieldN, regBits_toFin, highByte, BitVec.getLsbD_append, BitVec.getLsbD_extractLsb']
  by_cases h : k < 4
  · simp [h]
  · by_cases h' : k - 4 < 4
    · simp [h, h', show 4 + (k - 4) = k by omega]
    · simp [h, h', show k - 4 - 4 < 8 by omega, show 8 + (k - 4 - 4) = k by omega]

/-- The FIXED words encode back to themselves. -/
theorem encode_of_decodeFixed {op : Word} {i : Instr} (h : decodeFixed op = some i) :
    i.wellFormed = true ∧ encode i = op := by
  unfold decodeFixed at h
  split at h
  case isTrue hop => cases h; exact ⟨rfl, hop.symm⟩
  case isFalse =>
    split at h
    case isTrue hop => cases h; exact ⟨rfl, hop.symm⟩
    case isFalse => cases h

/-- What family 8xyN decodes to encodes as format XY with that secondary nibble. -/
theorem encode_of_decodeArith {x y : Reg} {n : BitVec 4} {i : Instr} (h : decodeArith x y n = some i) :
    i.wellFormed = true ∧ encode i = xynForm 0x8#4 x y n := by
  unfold decodeArith at h
  split at h <;> cases h <;> exact ⟨rfl, rfl⟩

theorem encode_of_decodeKey {x : Reg} {nn : Byte} {i : Instr} (h : decodeKey x nn = some i) :
    i.wellFormed = true ∧ encode i = xnnForm 0xE#4 x nn := by
  unfold decodeKey at h
  split at h <;> cases h <;> exact ⟨rfl, rfl⟩

theorem encode_of_decodeMisc {x : Reg} {nn : Byte} {i : Instr} (h : decodeMisc x nn = some i) :
    i.wellFormed = true ∧ encode i = xnnForm 0xF#4 x nn := by
  unfold decodeMisc at h
  split at h <;> cases h <;> exact ⟨rfl, rfl⟩

theorem encode_of_decodeWord {op : Word} {i : Instr} (h : decodeWord op = some i) :
    i.wellFormed = true ∧ encode i = op := by
  have hnnn := nnnForm_fields op
  have hxnn := xnnForm_fields op
  have hxyn := xynForm_fields op
  unfold decodeWord at h
  split at h
  case h_1 => exact encode_of_decodeFixed h
  case h_17 => cases h
  all_goals
    rename_i htop
    rw [htop] at hnnn hxnn hxyn
  case h_6 | h_10 =>
    split at h
    case isTrue hn =>
      cases h
      rw [hn] at hxyn
      exact ⟨rfl, hxyn⟩
    case isFalse => cases h
  case h_9 => exact hxyn ▸ encode_of_decodeArith h
  case h_14 =>
    cases h
    exact ⟨decide_eq_true (fieldN op).isLt, by simpa [encode] using hxyn⟩
  case h_15 => exact hxnn ▸ encode_of_decodeKey h
  case h_16 => exact hxnn ▸ encode_of_decodeMisc h
  all_goals cases h
  case h_2 | h_3 | h_11 | h_12 => exact ⟨rfl, hnnn⟩
  all_goals exact ⟨rfl, hxnn⟩

/-- Settles O3: each branch of the case tree puts back into a format the fields it read. -/
theorem encodeInvertsDecode : Obligations.EncodeInvertsDecode :=
  fun _ _ => encode_of_decodeWord

/-! ### The case tree and the opcode map -/

/-- The word of an instruction selects the instruction's own row (the lemma of each constructor is in `Laws.EncodesToRow`). -/
theorem row_selects_encode (i : Instr) : i.row.selects (encode i) = true := by
  open Laws.EncodesToRow in
  cases i with
  | cls => exact cls
  | ret => exact ret
  | jp nnn => exact jp nnn
  | call nnn => exact call nnn
  | seImm x nn => exact seImm x nn
  | sneImm x nn => exact sneImm x nn
  | seReg x y => exact seReg x y
  | ldImm x nn => exact ldImm x nn
  | addImm x nn => exact addImm x nn
  | ldReg x y => exact ldReg x y
  | orReg x y => exact orReg x y
  | andReg x y => exact andReg x y
  | xorReg x y => exact xorReg x y
  | addReg x y => exact addReg x y
  | sub x y => exact sub x y
  | shr x y => exact shr x y
  | subn x y => exact subn x y
  | shl x y => exact shl x y
  | sneReg x y => exact sneReg x y
  | ldI nnn => exact ldI nnn
  | jpV0 nnn => exact jpV0 nnn
  | rnd x nn => exact rnd x nn
  | drw x y n => exact drw x y n
  | skp x => exact skp x
  | sknp x => exact sknp x
  | ldVxDt x => exact ldVxDt x
  | ldVxK x => exact ldVxK x
  | ldDtVx x => exact ldDtVx x
  | ldStVx x => exact ldStVx x
  | addI x => exact addI x
  | ldF x => exact ldF x
  | ldB x => exact ldB x
  | stRegs x => exact stRegs x
  | ldRegs x => exact ldRegs x

/-- A word selects one row at most: two rows it selects agree in every bit both of them fix. -/
theorem row_eq_of_selects {a b : OpcodeRow} {op : Word} (ha : a ∈ opcodeTable) (hb : b ∈ opcodeTable)
    (hsa : a.selects op = true) (hsb : b.selects op = true) : a = b := by
  by_contra hab
  have hsymm : Std.Symm fun a b : OpcodeRow => a.pattern &&& (a.mask &&& b.mask) ≠ b.pattern &&& (a.mask &&& b.mask) :=
    ⟨fun a b h => by rw [BitVec.and_comm b.mask a.mask]; exact h.symm⟩
  refine opcodeTable_disjoint.forall ha hb hab ?_
  rw [← beq_iff_eq.mp hsa, ← beq_iff_eq.mp hsb]
  ext k
  simp only [BitVec.getElem_and]
  cases op[k] <;> cases a.mask[k] <;> cases b.mask[k] <;> rfl

/-- A field of a masked word is the field, masked. -/
theorem fieldTop_and (op m : Word) : fieldTop (op &&& m) = fieldTop op &&& fieldTop m := BitVec.extractLsb'_and

theorem fieldN_and (op m : Word) : fieldN (op &&& m) = fieldN op &&& fieldN m := BitVec.extractLsb'_and

theorem fieldNN_and (op m : Word) : fieldNN (op &&& m) = fieldNN op &&& fieldNN m := BitVec.extractLsb'_and

/-- A field all of whose bits a row fixes is the same in every word that selects the row. -/
theorem field_of_selects {w : Nat} {r : OpcodeRow} {op : Word} {field : Word → BitVec w}
    (hand : ∀ op m, field (op &&& m) = field op &&& field m) (hs : r.selects op = true)
    (hm : field r.mask = BitVec.allOnes w) : field op = field r.pattern := by
  rw [← beq_iff_eq.mp hs, hand, hm, BitVec.and_allOnes]

theorem isSome_decodeArith (x y x' y' : Reg) (n : BitVec 4) :
    (decodeArith x y n).isSome = (decodeArith x' y' n).isSome := by
  unfold decodeArith
  split <;> rfl

theorem isSome_decodeKey (x x' : Reg) (nn : Byte) : (decodeKey x nn).isSome = (decodeKey x' nn).isSome := by
  unfold decodeKey
  split <;> rfl

theorem isSome_decodeMisc (x x' : Reg) (nn : Byte) : (decodeMisc x nn).isSome = (decodeMisc x' nn).isSome := by
  unfold decodeMisc
  split <;> rfl

/-- The fields that decide whether a word decodes (R64): the top nibble, and by its value the whole word, the low nibble, the low
byte, or nothing more. -/
theorem isSome_decodeWord_congr {op op' : Word} (htop : fieldTop op = fieldTop op')
    (hfixed : fieldTop op' = 0x0#4 → op = op')
    (hn : fieldTop op' ∈ [0x5#4, 0x8#4, 0x9#4] → fieldN op = fieldN op')
    (hnn : fieldTop op' ∈ [0xE#4, 0xF#4] → fieldNN op = fieldNN op') :
    (decodeWord op).isSome = (decodeWord op').isSome := by
  unfold decodeWord
  rw [htop]
  split
  case h_1 h => rw [hfixed h]
  case h_6 h | h_10 h =>
    rw [hn (by simp [h])]
    split <;> rfl
  case h_9 h =>
    rw [hn (by simp [h])]
    exact isSome_decodeArith _ _ _ _ _
  case h_15 h =>
    rw [hnn (by simp [h])]
    exact isSome_decodeKey _ _ _
  case h_16 h =>
    rw [hnn (by simp [h])]
    exact isSome_decodeMisc _ _ _
  all_goals rfl

/-- Every row of R65 fixes the fields that decide whether a word decodes, and its own pattern decodes. -/
theorem opcodeTable_fixes : ∀ r ∈ opcodeTable,
    (fieldTop r.mask = BitVec.allOnes 4 ∧ (decodeWord r.pattern).isSome = true) ∧
    (fieldTop r.pattern = 0x0#4 → r.mask = BitVec.allOnes 16) ∧
    (fieldTop r.pattern ∈ [0x5#4, 0x8#4, 0x9#4] → fieldN r.mask = BitVec.allOnes 4) ∧
    (fieldTop r.pattern ∈ [0xE#4, 0xF#4] → fieldNN r.mask = BitVec.allOnes 8) := by
  decide

/-- A word that selects a row decodes: it agrees with the row's pattern in every field the case tree looks at. -/
theorem decodes_of_selects {r : OpcodeRow} {op : Word} (hr : r ∈ opcodeTable) (hs : r.selects op = true) :
    ∃ i, decodeWord op = some i := by
  obtain ⟨⟨htop, hpattern⟩, hfixed, hn, hnn⟩ := opcodeTable_fixes r hr
  have hsame := isSome_decodeWord_congr (field_of_selects fieldTop_and hs htop)
    (fun h => field_of_selects (field := id) (fun _ _ => rfl) hs (hfixed h))
    (fun h => field_of_selects fieldN_and hs (hn h)) (fun h => field_of_selects fieldNN_and hs (hnn h))
  exact Option.isSome_iff_exists.mp (hsame.trans hpattern)

theorem selects_row_of_decodeWord {op : Word} {i : Instr} (h : decodeWord op = some i) : i.row.selects op = true :=
  (encode_of_decodeWord h).2 ▸ row_selects_encode i

/-- Settles O4: a word that decodes selects the row of its instruction, and that row alone; a word that selects a row decodes. -/
theorem decoderAgreesWithOpcodeMap : Obligations.DecoderAgreesWithOpcodeMap := by
  intro op
  refine ⟨⟨?_, ?_⟩, ?_⟩
  · rintro ⟨i, h⟩
    exact ⟨i.row, row_mem i, selects_row_of_decodeWord h⟩
  · rintro ⟨r, hr, hs⟩
    exact decodes_of_selects hr hs
  · intro i h r hr
    have hi := selects_row_of_decodeWord h
    exact ⟨fun hs => row_eq_of_selects hr (row_mem i) hs hi, fun hri => hri ▸ hi⟩

/-- Settles O1, by evaluating the decoder on the twelve words. -/
theorem specWordsDecode : Obligations.SpecWordsDecode := by
  unfold Obligations.SpecWordsDecode
  decide

end Sys2Proof.Proofs
end

section
/-!
PROOFS. Zero-extended operands as numbers (R7); registers after a write; how frames compose, and the frame of each shared
operation.
-/

namespace Sys2Proof.Proofs

open Sys2Proof.Machine Sys2Proof.Claims

/-! ### Zero-extended operands -/

@[simp] theorem toNat_zextByte (b : Byte) : (zextByte b).toNat = b.toNat :=
  BitVec.toNat_setWidth_of_le (by decide)

/-- The target of Bnnn is the whole sum: it fits 16 bits (R92). -/
theorem toNat_zextAddr_add_zextByte (a : Addr) (b : Byte) : (zextAddr a + zextByte b).toNat = a.toNat + b.toNat := by
  have ha := toNat_zextAddr a
  have hb := toNat_zextByte b
  bv_omega

/-! ### Registers after a write -/

theorem writeV_get_same (s : State) (x : Reg) (b : Byte) : (writeV s x b).v[x] = b :=
  (writeV_get s x x b).trans (if_pos rfl)

theorem writeV_get_other {x r : Reg} (h : r ≠ x) (s : State) (b : Byte) : (writeV s x b).v[r] = s.v[r] :=
  (writeV_get s x r b).trans (if_neg h)

theorem writeFlag_get_flag (s : State) (c : Bool) : (writeFlag s c).v[(15 : Reg)] = flagByte c :=
  writeV_get_same s flagReg (flagByte c)

theorem writeFlag_get_other {r : Reg} (h : r ≠ 15) (s : State) (c : Bool) : (writeFlag s c).v[r] = s.v[r] :=
  writeV_get_other h s (flagByte c)

/-! ### Frames compose -/

theorem part_same_refl (s : State) (p : Part) : p.same s s := by
  cases p <;> simp [Part.same]

theorem part_same_trans {s t u : State} {p : Part} (h : p.same s t) (h' : p.same t u) : p.same s u := by
  cases p <;> simp_all [Part.same]

theorem sameBut_refl (l : List Part) (s : State) : SameBut l s s := fun p _ => part_same_refl s p

theorem sameBut_mono {l l' : List Part} {s t : State} (h : SameBut l s t) (hl : l ⊆ l') : SameBut l' s t :=
  fun p hp => h p fun hmem => hp (hl hmem)

/-- A change after a change: what neither touches is the same. -/
theorem sameBut_trans {l l' : List Part} {s t u : State} (h : SameBut l s t) (h' : SameBut l' t u) :
    SameBut (l ++ l') s u := fun p hp =>
  part_same_trans (h p fun hmem => hp (List.mem_append_left l' hmem)) (h' p fun hmem => hp (List.mem_append_right l hmem))

/-! ### The frame of each shared operation -/

theorem sameBut_pc_advance (s : State) : SameBut [.pc] s (advance s) := sameBut_pc_jumpTo (s.pc + 2) s

/-- A change and then the plain advance. -/
theorem sameBut_advance {l : List Part} {s t : State} (h : SameBut l s t) : SameBut (l ++ [.pc]) s (advance t) :=
  sameBut_trans h (sameBut_pc_advance t)

theorem sameBut_writeV (s : State) (x : Reg) (b : Byte) : SameBut [.v] s (writeV s x b) := by
  intro p hp
  cases p <;> simp_all [Part.same]

theorem sameBut_writeFlag (s : State) (b : Bool) : SameBut [.v] s (writeFlag s b) := sameBut_writeV s flagReg _

theorem sameBut_writeIndex (w : Word) (s : State) : SameBut [.i] s (writeIndex w s) := by
  intro p hp
  cases p <;> simp_all [Part.same]

theorem sameBut_storeAtIndex (bs : List Byte) (s : State) : SameBut [.mem] s (storeAtIndex bs s) := by
  intro p hp
  cases p <;> simp_all [Part.same]

theorem sameBut_loadAtIndex (x : Reg) (s : State) : SameBut [.v] s (loadAtIndex x s) := by
  intro p hp
  cases p <;> simp_all [Part.same]

theorem sameBut_consumeDraw (s : State) : SameBut [.draws] s (consumeDraw s) := by
  intro p hp
  cases p <;> simp_all [Part.same]

theorem sameBut_drawSprite (px py : Byte) (rows : List Byte) (s : State) :
    SameBut [.v, .fb, .drawFlag] s (drawSprite px py rows s) := by
  intro p hp
  cases p <;> simp_all [Part.same]

theorem sameBut_cleared (s : State) :
    SameBut [.fb, .drawFlag] s { s with fb := clearedFramebuffer, drawFlag := true } := by
  intro p hp
  cases p <;> simp_all [Part.same]

theorem sameBut_stack (st : Vector Word 16) (n : Fin 17) (s : State) :
    SameBut [.stack] s { s with stack := st, sp := n } := by
  intro p hp
  cases p <;> simp_all [Part.same]

end Sys2Proof.Proofs
end

section
/-!
PROOFS. Everything an instruction can do, once: it takes the fault of its one check (R150), or, when the check passes, has
its effect. The statements over all instructions are proved on the effect.
-/

namespace Sys2Proof.Proofs

open Sys2Proof.Machine Sys2Proof.Claims

/-! ### The effect of an instruction whose check passes -/

/-- What an instruction leaves when its check passes (`exec_of_check_passed` ties it to `exec`). -/
def effect (i : Instr) (s : State) : State :=
  match i with
  | .cls => advance { s with fb := clearedFramebuffer, drawFlag := true }
  | .ret => jumpTo ((s.stack[s.sp.val - 1]'(by omega)) + 2) { s with sp := ⟨s.sp.val - 1, by omega⟩ }
  | .jp nnn => jumpTo (zextAddr nnn) s
  | .call nnn => jumpTo (zextAddr nnn) { s with stack := s.stack.setIfInBounds s.sp.val s.pc, sp := s.sp + 1 }
  | .seImm x nn => skipIf (s.v[x] == nn) s
  | .sneImm x nn => skipIf (s.v[x] != nn) s
  | .seReg x y => skipIf (s.v[x] == s.v[y]) s
  | .ldImm x nn => advance (writeV s x nn)
  | .addImm x nn => advance (writeV s x (s.v[x] + nn))
  | .ldReg x y => advance (writeV s x s.v[y])
  | .orReg x y => advance (writeV s x (s.v[x] ||| s.v[y]))
  | .andReg x y => advance (writeV s x (s.v[x] &&& s.v[y]))
  | .xorReg x y => advance (writeV s x (s.v[x] ^^^ s.v[y]))
  | .addReg x y => advance (writeFlag (writeV s x (s.v[x] + s.v[y])) (carryOut s.v[x] s.v[y]))
  | .sub x y => advance (writeFlag (writeV s x (s.v[x] - s.v[y])) (noBorrow s.v[x] s.v[y]))
  | .shr x _ => advance (shiftRightV x (writeFlag s (lowBit s.v[x])))
  | .subn x y => advance (writeFlag (writeV s x (s.v[y] - s.v[x])) (noBorrow s.v[y] s.v[x]))
  | .shl x _ => advance (shiftLeftV x (writeFlag s (topBit s.v[x])))
  | .sneReg x y => skipIf (s.v[x] != s.v[y]) s
  | .ldI nnn => advance (writeIndex (zextAddr nnn) s)
  | .jpV0 nnn => jumpTo (zextAddr nnn + zextByte s.v[(0 : Reg)]) s
  | .rnd x nn => maskedRandom (Config.freeByte s.draws) x nn (consumeDraw s)
  | .drw x y n => advance (drawSprite s.v[x] s.v[y] (s.mem.load s.i.toNat n) s)
  | .skp x => skipIf (s.keys[s.v[x].toNat]? == some true) s
  | .sknp x => skipIf (s.keys[s.v[x].toNat]? == some false) s
  | .ldVxDt x => advance (writeV s x s.dt)
  | .ldVxK x =>
    match firstPressed s.keys with
    | none => s
    | some k => advance (writeV s x (BitVec.ofNat 8 k.val))
  | .ldDtVx x => advance { s with dt := s.v[x] }
  | .ldStVx x => advance { s with st := s.v[x] }
  | .addI x => advance (writeFlag (writeIndex (s.i + zextByte s.v[x]) s) (indexOverflow s.i s.v[x]))
  | .ldF x => advance (writeIndex (zextByte s.v[x] * 5) s)
  | .ldB x => advance (storeAtIndex (decimalDigits s.v[x]) s)
  | .stRegs x => advance (storeAtIndex (registersUpTo x s) s)
  | .ldRegs x => advance (loadAtIndex x s)

/-! ### `exec` is the check and then the effect -/

/-- An access of at least one byte whose last address lies outside raises MemBounds with that address (R46). -/
theorem withSpan_beyond {n : Nat} {f : State → State} {s : State} (hn : 1 ≤ n) (h : 4095 < s.i.toNat + n - 1) :
    withSpan n f s = raise .memBounds (s.i.toNat + n - 1) s := withSpan_outside (spanOutside_iff.mpr ⟨hn, h⟩)

/-- An access of no bytes, or whose last address lies inside, has its effect (R46). -/
theorem withSpan_within {n : Nat} {f : State → State} {s : State} (h : ¬ (1 ≤ n ∧ 4095 < s.i.toNat + n - 1)) :
    withSpan n f s = advance (f s) :=
  withSpan_inside (Bool.eq_false_iff.mpr fun hout => h (spanOutside_iff.mp hout))

theorem skipOnKey_beyond {x : Reg} {b : Bool} {s : State} (h : 15 < s.v[x].toNat) :
    skipOnKey x b s = raise .keyIndex s.v[x].toNat s := by
  obtain ⟨-, hs⟩ | ⟨hlt, -⟩ := skipOnKey_cases x b s
  · exact hs
  · exact absurd (show s.v[x].toNat < 16 from hlt) (by omega)

theorem skipOnKey_within {x : Reg} {b : Bool} {s : State} (h : ¬ 15 < s.v[x].toNat) :
    skipOnKey x b s = skipIf (s.keys[s.v[x].toNat]? == some b) s := by
  obtain ⟨hge, -⟩ | ⟨hlt, hs⟩ := skipOnKey_cases x b s
  · exact absurd (show 16 ≤ s.v[x].toNat from hge) (by omega)
  · have hlt' : s.v[x].toNat < 16 := hlt
    rw [hs, Vector.getElem?_eq_getElem hlt', Option.some_beq_some]
    rfl

/-- An instruction whose check fails takes that fault and does nothing else. -/
theorem exec_of_check_failed {i : Instr} {s : State} {c : FaultCode} {n : Nat}
    (h : instrFault s i = some (c, n)) : exec i s = .next (raise c n s) := by
  cases i
  case call nnn =>
    obtain ⟨hsp, rfl, rfl⟩ : s.sp.val = 16 ∧ .stackOverflow = c ∧ nnn.toNat = n := by simpa [instrFault] using h
    exact exec_call_full hsp
  case ret =>
    obtain ⟨hsp, rfl, rfl⟩ : s.sp.val = 0 ∧ .stackUnderflow = c ∧ 0 = n := by simpa [instrFault] using h
    exact exec_ret_empty hsp
  case drw x y m =>
    obtain ⟨⟨hm, hout⟩, rfl, rfl⟩ :
      (1 ≤ m ∧ 4095 < s.i.toNat + m - 1) ∧ .memBounds = c ∧ s.i.toNat + m - 1 = n := by simpa [instrFault] using h
    exact congrArg Host.Outcome.next (withSpan_beyond hm hout)
  case ldB x =>
    obtain ⟨hout, rfl, rfl⟩ : 4095 < s.i.toNat + 2 ∧ .memBounds = c ∧ s.i.toNat + 2 = n := by
      simpa [instrFault] using h
    exact congrArg Host.Outcome.next (withSpan_beyond (by decide) hout)
  case stRegs x | ldRegs x =>
    obtain ⟨hout, rfl, rfl⟩ : 4095 < s.i.toNat + x.val ∧ .memBounds = c ∧ s.i.toNat + x.val = n := by
      simpa [instrFault] using h
    exact congrArg Host.Outcome.next (withSpan_beyond (by omega) hout)
  case skp x | sknp x =>
    obtain ⟨hkey, rfl, rfl⟩ : 15 < s.v[x].toNat ∧ .keyIndex = c ∧ s.v[x].toNat = n := by
      simpa [instrFault] using h
    exact congrArg Host.Outcome.next (skipOnKey_beyond hkey)
  all_goals cases h

/-- An instruction whose check passes, or that has none, has its effect. -/
theorem exec_of_check_passed {i : Instr} {s : State} (h : instrFault s i = none) :
    exec i s = .next (effect i s) := by
  cases i
  case call nnn =>
    have hfull : s.sp.val ≠ 16 := by simpa [instrFault] using h
    have hsp : s.sp.val < 16 := by omega
    have hnext : s.sp + 1 = ⟨s.sp.val + 1, by omega⟩ := Fin.ext (Fin.val_add_one_of_lt' (by omega))
    have hstack : s.stack.setIfInBounds s.sp.val s.pc = s.stack.set s.sp.val s.pc := by
      ext k hk
      simp [Vector.getElem_set, Vector.getElem_setIfInBounds]
    rw [exec_call_room hsp, effect, hnext, hstack]
  case ret => exact exec_ret_some (by simpa [instrFault] using h)
  case ldVxK x =>
    simp only [exec, execLdVxK, effect]
    cases firstPressed s.keys <;> rfl
  case drw x y m => exact congrArg Host.Outcome.next (withSpan_within (by simpa [instrFault] using h))
  case ldB x =>
    have hin : ¬ 4095 < s.i.toNat + 2 := by simpa [instrFault] using h
    exact congrArg Host.Outcome.next (withSpan_within fun hout => hin hout.2)
  case stRegs x | ldRegs x =>
    have hin : ¬ 4095 < s.i.toNat + x.val := by simpa [instrFault] using h
    exact congrArg Host.Outcome.next (withSpan_within fun hout => hin hout.2)
  case skp x | sknp x => exact congrArg Host.Outcome.next (skipOnKey_within (by simpa [instrFault] using h))
  all_goals rfl

/-- Everything an instruction can do: the fault of its check, or its effect. -/
theorem exec_cases {i : Instr} {s t : State} (h : exec i s = .next t) :
    (∃ c n, instrFault s i = some (c, n) ∧ t = raise c n s) ∨ (instrFault s i = none ∧ t = effect i s) := by
  cases hf : instrFault s i with
  | some f => exact .inl ⟨f.1, f.2, rfl, Host.Outcome.next.inj (h.symm.trans (exec_of_check_failed hf))⟩
  | none => exact .inr ⟨rfl, Host.Outcome.next.inj (h.symm.trans (exec_of_check_passed hf))⟩

theorem exec_total (i : Instr) (s : State) : ∃ t, exec i s = .next t := by
  cases hf : instrFault s i with
  | some f => exact ⟨_, exec_of_check_failed hf⟩
  | none => exact ⟨_, exec_of_check_passed hf⟩

end Sys2Proof.Proofs
end

section
/-! PROOFS. The step (R80 to R83, R160): the fault it takes, the instruction it runs, and what a halted machine does. -/

namespace Sys2Proof.Proofs

open Sys2Proof.Machine Sys2Proof.Claims

/-! ### A step under each condition -/

theorem step_halted {s : State} (h : s.halted = true) : step s = .next s := by
  simp only [step, fetchInstr, h, if_true]

theorem step_of_fetchInstr_run {s : State} {i : Instr} (h : fetchInstr s = .run i) : step s = exec i s := by
  simp only [step, h]

/-- A running machine takes the fault of the first check that fails (R160) and does nothing else. -/
theorem step_of_stepFault_some {s : State} {c : FaultCode} {n : Nat} (hr : s.halted = false)
    (h : stepFault s = some (c, n)) : step s = .next (raise c n s) := by
  unfold stepFault at h
  obtain ⟨hh, -⟩ | ⟨-, hp, hs⟩ | ⟨-, hp, hd, hs⟩ | ⟨-, hp, i, hd, hs⟩ := step_cases s
  · rw [hr] at hh
    cases hh
  · rw [if_pos hp] at h
    cases h
    exact hs
  · rw [if_neg (by omega), hd] at h
    cases h
    exact hs
  · rw [if_neg (by omega), hd] at h
    exact hs.trans (exec_of_check_failed h)

/-- Where no check fails a running machine has the effect of the instruction at `pc`. -/
theorem step_of_stepFault_none {s : State} (hr : s.halted = false) (h : stepFault s = none) :
    s.pc.toNat ≤ 4094 ∧ ∃ i, instrFault s i = none ∧ step s = .next (effect i s) := by
  unfold stepFault at h
  obtain ⟨hh, -⟩ | ⟨-, hp, -⟩ | ⟨-, hp, hd, -⟩ | ⟨-, hp, i, hd, hs⟩ := step_cases s
  · rw [hr] at hh
    cases hh
  · rw [if_pos hp] at h
    cases h
  · rw [if_neg (by omega), hd] at h
    cases h
  · rw [if_neg (by omega), hd] at h
    exact ⟨hp, i, h, hs.trans (exec_of_check_passed h)⟩

/-- Everything a step can do: nothing while halted, the fault of the first check that fails, or an instruction's effect. -/
theorem step_outcomes {s t : State} (h : step s = .next t) :
    (s.halted = true ∧ t = s) ∨
    (s.halted = false ∧ ∃ c n, stepFault s = some (c, n) ∧ t = raise c n s) ∨
    (s.halted = false ∧ s.pc.toNat ≤ 4094 ∧ ∃ i, instrFault s i = none ∧ t = effect i s) := by
  cases hh : s.halted with
  | true => exact .inl ⟨rfl, Host.Outcome.next.inj (h.symm.trans (step_halted hh))⟩
  | false =>
    cases hf : stepFault s with
    | some f =>
      exact .inr (.inl ⟨rfl, f.1, f.2, rfl, Host.Outcome.next.inj (h.symm.trans (step_of_stepFault_some hh hf))⟩)
    | none =>
      obtain ⟨hp, i, hi, hs⟩ := step_of_stepFault_none hh hf
      exact .inr (.inr ⟨rfl, hp, i, hi, Host.Outcome.next.inj (h.symm.trans hs)⟩)

theorem step_total (s : State) : ∃ t, step s = .next t := by
  obtain ⟨-, hs⟩ | ⟨-, -, hs⟩ | ⟨-, -, -, hs⟩ | ⟨-, -, i, -, hs⟩ := step_cases s
  · exact ⟨_, hs⟩
  · exact ⟨_, hs⟩
  · exact ⟨_, hs⟩
  · exact hs ▸ exec_total i s

/-! ### The statements -/

/-- Bytes that decode with none left over are the word of that instruction. -/
theorem decodeWord_of_decode_pair {hi lo : Byte} {i : Instr} (h : decode [hi, lo] = .ok (i, [])) :
    decodeWord (joinBytes hi lo) = some i := by
  simp only [decode] at h
  cases hd : decodeWord (joinBytes hi lo) <;> simp_all

/-- Settles O5: the fetch finds the decoded instruction, which is all a step then runs. -/
theorem stepRunsDecodedInstruction : Obligations.StepRunsDecodedInstruction := by
  intro s i hr hp hd
  exact step_of_fetchInstr_run (fetchInstr_run_iff.mpr ⟨hr, hp, decodeWord_of_decode_pair hd⟩)

/-- Settles O6: with `pc` inside the memory the decode is the first check to fail. -/
theorem invalidWordRaisesDecodeError : Obligations.InvalidWordRaisesDecodeError := by
  intro s hr hp hd
  have hf : stepFault s = some (.decodeError, (fetchWord s).toNat) := by
    rw [stepFault, if_neg (by omega), hd]
  exact ⟨_, step_of_stepFault_some hr hf, faultTaken_raise _ _ s⟩

/-- Settles O7: the bounds of the fetch are the first check. -/
theorem fetchOutsideRaisesFetchBounds : Obligations.FetchOutsideRaisesFetchBounds := by
  intro s hr hp
  exact ⟨_, step_of_stepFault_some hr (if_pos hp), faultTaken_raise _ _ s⟩

theorem run_halted {s : State} (h : s.halted = true) (k : Nat) : Host.Core.run Sys2Proof.core k s = .next s := by
  induction k with
  | zero => rfl
  | succ k ih => rw [core_run_succ (step_halted h), ih]

/-- Settles O8: a step of a halted machine is the identity, and so is any number of them. -/
theorem haltedStepsChangeNothing : Obligations.HaltedStepsChangeNothing := by
  intro s k h
  refine ⟨run_halted h k, ?_⟩
  rw [perform_step (step_halted h), stepResponse_halted h]

/-- Settles O9: a fault is a next state and so is an effect. -/
theorem everyStepHasNextState : Obligations.EveryStepHasNextState := ⟨exec_total, step_total⟩

/-- Settles O12: the step runs the jump, and the jump goes to where `pc` stands. -/
theorem endedProgramIsFixedPoint : Obligations.EndedProgramIsFixedPoint := by
  rintro s ⟨hr, ho, nnn, hd, hself⟩
  rw [step_of_fetchInstr_run (fetchInstr_run_iff.mpr ⟨hr, fetchInside_iff.mp ho, hd⟩), exec_jp, hself]
  rfl

end Sys2Proof.Proofs
end

section
/-!
PROOFS. The whole machine: when a step faults (R150, R160), what an instruction may change (R11, R12, R45), and what reaches it
(R23, R112).
-/

namespace Sys2Proof.Proofs

open Sys2Proof.Machine Sys2Proof.Claims

/-! ### The frame of an effect -/

/-- An effect writes the parts its instruction may write, never the latch, and `pc`. -/
theorem sameBut_effect (i : Instr) (s : State) :
    SameBut ((mayWrite i).filter (· != .latch) ++ [.pc]) s (effect i s) := by
  cases i
  case cls => exact sameBut_advance (sameBut_cleared s)
  case ret => exact sameBut_trans (sameBut_stack s.stack _ s) (sameBut_pc_jumpTo _ _)
  case call => exact sameBut_trans (sameBut_stack _ _ s) (sameBut_pc_jumpTo _ _)
  case jp | jpV0 => exact sameBut_pc_jumpTo _ s
  case seImm | sneImm | seReg | sneReg | skp | sknp => exact sameBut_pc_skipIf _ s
  case ldImm | addImm | ldReg | orReg | andReg | xorReg | ldVxDt => exact sameBut_v_pc_advance_writeV s _ _
  case addReg | sub | subn =>
    exact sameBut_mono (sameBut_advance (sameBut_trans (sameBut_writeV s _ _) (sameBut_writeFlag _ _))) (by simp [mayWrite])
  case shr | shl =>
    exact sameBut_mono (sameBut_advance (sameBut_trans (sameBut_writeFlag s _) (sameBut_writeV _ _ _))) (by simp [mayWrite])
  case ldI | ldF => exact sameBut_i_pc_advance_writeIndex _ s
  case rnd =>
    exact sameBut_mono (sameBut_trans (sameBut_consumeDraw s) (sameBut_v_pc_advance_writeV _ _ _)) (by simp [mayWrite])
  case drw =>
    exact sameBut_mono (sameBut_advance (sameBut_drawSprite _ _ _ s)) (by simp [mayWrite])
  case ldVxK x =>
    simp only [effect]
    cases firstPressed s.keys with
    | none => exact sameBut_refl _ s
    | some k => exact sameBut_v_pc_advance_writeV s _ _
  case ldDtVx => exact sameBut_dt_pc_advance _ s
  case ldStVx => exact sameBut_st_pc_advance _ s
  case addI =>
    exact sameBut_mono (sameBut_advance (sameBut_trans (sameBut_writeIndex _ s) (sameBut_writeFlag _ _))) (by simp [mayWrite])
  case ldB | stRegs => exact sameBut_mono (sameBut_advance (sameBut_storeAtIndex _ s)) (by simp [mayWrite])
  case ldRegs => exact sameBut_mono (sameBut_advance (sameBut_loadAtIndex _ s)) (by simp [mayWrite])

/-- An effect leaves the latch. -/
theorem latch_same_effect (i : Instr) (s : State) : Part.latch.same s (effect i s) :=
  sameBut_effect i s .latch (by simp)

/-- An effect leaves every part but `pc` that its instruction may not write. -/
theorem part_same_effect {i : Instr} {p : Part} (s : State) (hpc : p ≠ .pc) (hp : p ∉ mayWrite i) : p.same s (effect i s) :=
  sameBut_effect i s p (by simp [hpc, hp])

/-- Settles O48: the fault of the first failing check is raised; where none fails the effect leaves the latch. -/
theorem faultsAreCompleteAndPrecise : Obligations.FaultsAreCompleteAndPrecise := by
  intro s hr
  cases hf : stepFault s with
  | some f =>
    have hs := step_of_stepFault_some hr hf
    exact ⟨_, hs, faultTaken_raise f.1 f.2 s, by rw [perform_step hs, stepResponse_halted rfl, raise_faultCode]⟩
  | none =>
    obtain ⟨-, i, -, hs⟩ := step_of_stepFault_none hr hf
    have hrun : (effect i s).halted = false := (latch_same_effect i s).1.trans hr
    exact ⟨_, hs, hrun, by rw [perform_step hs, stepResponse_running hrun]⟩

/-! ### What an instruction may change -/

/-- An effect writes no register but those R11 and R12 list. -/
theorem effect_keeps_reg {i : Instr} {r : Reg} (s : State) (h : writesReg r i = false) :
    (effect i s).v[r] = s.v[r] := by
  cases i
  case addReg | sub | subn =>
    obtain ⟨hx, hf⟩ : r ≠ _ ∧ r ≠ 15 := by simpa [writesReg] using h
    exact (writeFlag_get_other hf _ _).trans (writeV_get_other hx s _)
  case shr | shl =>
    obtain ⟨hx, hf⟩ : r ≠ _ ∧ r ≠ 15 := by simpa [writesReg] using h
    exact (writeV_get_other hx _ _).trans (writeFlag_get_other hf s _)
  case ldImm | addImm | ldReg | orReg | andReg | xorReg | rnd | ldVxDt =>
    exact writeV_get_other (by simpa [writesReg] using h) _ _
  case ldVxK x =>
    cases hk : firstPressed s.keys with
    | none => simp only [effect, hk]
    | some k =>
      simp only [effect, hk]
      exact writeV_get_other (by simpa [writesReg] using h) s _
  case addI | drw => exact writeFlag_get_other (by simpa [writesReg] using h) _ _
  case ldRegs x => exact (getElem_loadedRegisters x _ _ s.v r).trans (if_neg (by simpa [writesReg] using h))
  all_goals rfl

/-- Settles O49: a fault writes no register, an effect only those listed. -/
theorem onlyNamedRegistersChange : Obligations.OnlyNamedRegistersChange := by
  intro i s t r h hr
  obtain ⟨c, n, -, rfl⟩ | ⟨-, rfl⟩ := exec_cases h
  · rfl
  · exact effect_keeps_reg s hr

/-- An instruction with a failing check may write the latch, and `draws` too unless the info fits `fault_info`. -/
theorem latch_mem_mayWrite_of_check_failed {i : Instr} {s : State} {c : FaultCode} {n : Nat} (h : instrFault s i = some (c, n)) :
    .latch ∈ mayWrite i ∧ (.draws ∈ mayWrite i ∨ n < 65536) := by
  cases i
  case drw | ldB | stRegs | ldRegs => exact ⟨by simp [mayWrite], .inl (by simp [mayWrite])⟩
  case call nnn =>
    obtain ⟨-, -, rfl⟩ : s.sp.val = 16 ∧ .stackOverflow = c ∧ nnn.toNat = n := by simpa [instrFault] using h
    exact ⟨by simp [mayWrite], .inr (by omega)⟩
  case ret =>
    obtain ⟨-, -, rfl⟩ : s.sp.val = 0 ∧ .stackUnderflow = c ∧ 0 = n := by simpa [instrFault] using h
    exact ⟨by simp [mayWrite], .inr (by decide)⟩
  case skp x | sknp x =>
    obtain ⟨-, -, rfl⟩ : 15 < s.v[x].toNat ∧ .keyIndex = c ∧ s.v[x].toNat = n := by simpa [instrFault] using h
    exact ⟨by simp [mayWrite], .inr (by omega)⟩
  all_goals cases h

/-- Settles O50: a fault writes the latch, and `draws` where its info does not fit; an effect is inside its own frame. -/
theorem onlyNamedPartsChange : Obligations.OnlyNamedPartsChange := by
  intro i s t p h hpc hp
  obtain ⟨c, n, hf, rfl⟩ | ⟨-, rfl⟩ := exec_cases h
  · obtain ⟨-, -, -, hframe, hfits⟩ := faultTaken_raise c n s
    obtain ⟨hlatch, hdraws⟩ := latch_mem_mayWrite_of_check_failed hf
    by_cases hd : p = .draws
    · subst hd
      exact (hfits (hdraws.resolve_left hp)).2
    · exact hframe p (by simp [hd, ne_of_mem_of_not_mem hlatch hp |>.symm])
  · exact part_same_effect s hpc hp

/-- A store inside the memory changes no byte outside the stored ones. -/
theorem read_storeAtIndex_outside {bs : List Byte} {s : State} {a : Nat} (hm : s.mem.wf = true)
    (hin : s.i.toNat + bs.length ≤ 4096) (ha : a < s.i.toNat ∨ s.i.toNat + bs.length ≤ a) :
    (storeAtIndex bs s).mem.read a = s.mem.read a := Memory.read_store_outside hm hin ha

/-- An effect changes no byte of memory but those its instruction stores to. -/
theorem read_effect_outside {i : Instr} {s : State} {a : Nat} (hm : s.mem.wf = true) (hf : instrFault s i = none)
    (ha : a < s.i.toNat ∨ s.i.toNat + storeCount i ≤ a) : (effect i s).mem.read a = s.mem.read a := by
  cases i
  case ldB x =>
    have hin : ¬ 4095 < s.i.toNat + 2 := by simpa [instrFault] using hf
    exact read_storeAtIndex_outside hm (by rw [length_decimalDigits]; omega) ha
  case stRegs x =>
    have hin : ¬ 4095 < s.i.toNat + x.val := by simpa [instrFault] using hf
    exact read_storeAtIndex_outside hm (by rw [length_registersUpTo]; omega) (by rwa [length_registersUpTo])
  all_goals exact part_same_effect (p := .mem) s (by decide) (by simp [mayWrite]) a

/-- Settles O51: a fault changes no memory, an effect only the bytes its instruction stores to. -/
theorem onlyStoredBytesChange : Obligations.OnlyStoredBytesChange := by
  intro i s t a hm h ha
  obtain ⟨c, n, -, rfl⟩ | ⟨hf, rfl⟩ := exec_cases h
  · rfl
  · exact read_effect_outside hm hf ha

/-! ### What reaches an instruction -/

theorem instrFault_keys (i : Instr) (s : State) (ks : Vector Bool 16) :
    instrFault { s with keys := ks } i = instrFault s i := by
  cases i <;> rfl

theorem effect_keys {i : Instr} (s : State) (ks : Vector Bool 16) (h : readsKeys i = false) :
    effect i { s with keys := ks } = { effect i s with keys := ks } := by
  cases i
  case skp | sknp | ldVxK => cases h
  all_goals rfl

/-- Settles O52: no check reads the keypad, and the effect of any other instruction carries it along. -/
theorem keypadReachesOnlyKeyInstructions : Obligations.KeypadReachesOnlyKeyInstructions := by
  intro i s t ks hi h
  obtain ⟨c, n, hf, rfl⟩ | ⟨hf, rfl⟩ := exec_cases h
  · exact exec_of_check_failed ((instrFault_keys i s ks).trans hf)
  · rw [exec_of_check_passed ((instrFault_keys i s ks).trans hf), effect_keys s ks hi]

theorem instrFault_draws (i : Instr) (s : State) (d : Nat) :
    instrFault { s with draws := d } i = instrFault s i := by
  cases i <;> rfl

theorem effect_draws {i : Instr} (s : State) (d : Nat) (h : ∀ x nn, i ≠ .rnd x nn) :
    effect i { s with draws := d } = { effect i s with draws := d } := by
  cases i
  case rnd x nn => exact absurd rfl (h x nn)
  case ldVxK x =>
    simp only [effect]
    cases firstPressed s.keys <;> rfl
  all_goals rfl

theorem draws_effect {i : Instr} (s : State) (h : ∀ x nn, i ≠ .rnd x nn) : (effect i s).draws = s.draws := by
  have hcarry := effect_draws s s.draws h
  exact (congrArg State.draws hcarry :)

/-- A fault whose info fits consumes no free value and depends on none. -/
theorem raise_draws_of_fits {c : FaultCode} {n : Nat} (s : State) (d : Nat) (h : infoFits n = true) :
    raise c n { s with draws := d } = { raise c n s with draws := d } := by
  simp only [raise, h, if_true]

/-- The info of a failing check fits 16 bits, but for a MemBounds near the end of what I can address. -/
theorem info_fits_or_memBounds_of_check_failed {i : Instr} {s : State} {c : FaultCode} {n : Nat} (hi : i.wellFormed = true)
    (h : instrFault s i = some (c, n)) : n < 65536 ∨ (c = .memBounds ∧ 65535 < s.i.toNat + 15) := by
  cases i
  case drw x y m =>
    have hm : m < 16 := of_decide_eq_true hi
    obtain ⟨-, rfl, rfl⟩ :
      (1 ≤ m ∧ 4095 < s.i.toNat + m - 1) ∧ .memBounds = c ∧ s.i.toNat + m - 1 = n := by simpa [instrFault] using h
    exact (Nat.lt_or_ge _ _).imp_right fun _ => ⟨rfl, by omega⟩
  case ldB x =>
    obtain ⟨-, rfl, rfl⟩ : 4095 < s.i.toNat + 2 ∧ .memBounds = c ∧ s.i.toNat + 2 = n := by simpa [instrFault] using h
    exact (Nat.lt_or_ge _ _).imp_right fun _ => ⟨rfl, by omega⟩
  case stRegs x | ldRegs x =>
    obtain ⟨-, rfl, rfl⟩ : 4095 < s.i.toNat + x.val ∧ .memBounds = c ∧ s.i.toNat + x.val = n := by
      simpa [instrFault] using h
    exact (Nat.lt_or_ge _ _).imp_right fun _ => ⟨rfl, by omega⟩
  case call | ret | skp | sknp => exact .inl ((latch_mem_mayWrite_of_check_failed h).2.resolve_left (by simp [mayWrite]))
  all_goals cases h

/-- Settles O53: an effect other than that of Cxnn carries the counter along; a fault consumes a free value exactly if its info
does not fit. -/
theorem freeValuesReachOnlyTheirConsumers : Obligations.FreeValuesReachOnlyTheirConsumers := by
  intro i s t d hi h
  obtain ⟨c, n, hf, rfl⟩ | ⟨hf, rfl⟩ := exec_cases h
  · have hf' := (instrFault_draws i s d).trans hf
    refine ⟨fun hkept => ?_, fun hused => .inr ?_⟩
    · have hfits : infoFits n = true := by
        by_contra hn
        simp [hn] at hkept
      rw [exec_of_check_failed hf', raise_draws_of_fits s d hfits]
    · refine (info_fits_or_memBounds_of_check_failed hi hf).resolve_left fun hn => hused ?_
      simp [infoFits_of_lt hn]
  · have hf' := (instrFault_draws i s d).trans hf
    by_cases hrnd : ∃ x nn, i = .rnd x nn
    · refine ⟨fun hkept => ?_, fun _ => .inl hrnd⟩
      obtain ⟨x, nn, rfl⟩ := hrnd
      exact absurd hkept (Nat.succ_ne_self s.draws)
    · have hother : ∀ x nn, i ≠ .rnd x nn := fun x nn hi => hrnd ⟨x, nn, hi⟩
      exact ⟨fun _ => by rw [exec_of_check_passed hf', effect_draws s d hother],
        fun hused => absurd (draws_effect s hother) hused⟩

end Sys2Proof.Proofs
end

section
/-! PROOFS. The host's operations and their sequences (R30): reset, program load, boot, frame, and the latch they all keep. -/

namespace Sys2Proof.Proofs

open Sys2Proof.Machine Sys2Proof.Claims

/-! ### The frame of each operation -/

theorem sameBut_keys_setKey (k : Fin 16) (b : Bool) (s : State) : SameBut [.keys] s (setKey k b s) := by
  intro p hp
  cases p <;> simp_all [Part.same]

theorem sameBut_drawFlag_clearDrawFlag (s : State) : SameBut [.drawFlag] s (clearDrawFlag s) := by
  intro p hp
  cases p <;> simp_all [Part.same]

theorem sameBut_mem_store (m : Memory) (s : State) : SameBut [.mem] s { s with mem := m } := by
  intro p hp
  cases p <;> simp_all [Part.same]

theorem sameBut_draws_reset (n : Nat) : SameBut [.draws] State.reset { State.reset with draws := n } := by
  intro p hp
  cases p <;> simp_all [Part.same]

/-! ### `LOAD_PROGRAM` -/

theorem loadProgram_fits {bytes : List Byte} (s : State) (h : bytes.length ≤ 3584) :
    loadProgram bytes s = (.ok, { s with mem := s.mem.store 0x200 bytes }) := by
  have hf : programFits bytes = true := decide_eq_true h
  simp only [loadProgram, hf, if_true]
  rfl

theorem loadProgram_tooLong {bytes : List Byte} (s : State) (h : 3584 < bytes.length) :
    loadProgram bytes s = (.capacityError, s) := by
  have hf : programFits bytes = false := decide_eq_false (Nat.not_le.mpr h)
  simp [loadProgram, hf]

theorem sameBut_mem_loadProgram (bytes : List Byte) (s : State) : SameBut [.mem] s (loadProgram bytes s).2 := by
  by_cases h : bytes.length ≤ 3584
  · rw [loadProgram_fits s h]
    exact sameBut_mem_store _ s
  · rw [loadProgram_tooLong s (by omega)]
    exact sameBut_refl _ s

theorem perform_loadProgram_fits {bytes : List Byte} (s : State) (h : bytes.length ≤ 3584) :
    perform (.loadProgram bytes) s = .next (.ok, (loadProgram bytes s).2) := by
  simp only [perform, loadProgram_fits s h, loadResponse]

theorem perform_loadProgram_tooLong {bytes : List Byte} (s : State) (h : 3584 < bytes.length) :
    perform (.loadProgram bytes) s = .next (.capacityError, s) := by
  simp only [perform, loadProgram_tooLong s h, loadResponse]

/-- A program that fits ends inside the memory. -/
theorem program_fits_memory {bytes : List Byte} (h : bytes.length ≤ 3584) :
    0x200 + bytes.length ≤ Config.memBytes := by
  unfold Config.memBytes
  omega

theorem read_loadProgram_program {bytes : List Byte} {s : State} (hm : s.mem.wf = true) (h : bytes.length ≤ 3584)
    {k : Nat} (hk : k < bytes.length) : (loadProgram bytes s).2.mem.read (0x200 + k) = bytes[k] := by
  rw [loadProgram_fits s h, Memory.read_store hm (program_fits_memory h), dif_pos ⟨by omega, by omega⟩]
  simp only [Nat.add_sub_cancel_left]

theorem read_loadProgram_outside {bytes : List Byte} {s : State} (hm : s.mem.wf = true) (h : bytes.length ≤ 3584)
    {a : Nat} (ha : a < 0x200 ∨ 0x200 + bytes.length ≤ a) :
    (loadProgram bytes s).2.mem.read a = s.mem.read a := by
  rw [loadProgram_fits s h]
  exact Memory.read_store_outside hm (program_fits_memory h) ha

/-- Settles O42: the length decides; a program that fits is one store at 0x200. -/
theorem loadProgramCopiesOrRejects : Obligations.LoadProgramCopiesOrRejects := by
  intro bytes s hm
  refine ⟨perform_loadProgram_tooLong s, fun h => ⟨_, perform_loadProgram_fits s h, ?_, ?_, ?_, ?_⟩⟩
  · exact fun k hk => read_loadProgram_program hm h hk
  · exact fun a ha => read_loadProgram_outside hm h ha
  · exact wf_loadProgram hm
  · exact sameBut_mem_loadProgram bytes s

/-! ### `INITIALIZE` and `LOAD_PROGRAM` in either order -/

/-- Stores to disjoint ranges commute: both memories are canonical and read alike. -/
theorem store_store_disjoint {m : Memory} {a b : Nat} {bs cs : List Byte} (hm : m.wf = true)
    (ha : a + bs.length ≤ Config.memBytes) (hb : b + cs.length ≤ Config.memBytes) (hdisj : a + bs.length ≤ b) :
    (m.store a bs).store b cs = (m.store b cs).store a bs := by
  have hma := Memory.wf_store hm ha
  have hmb := Memory.wf_store hm hb
  refine Memory.eq_of_read_eq (Memory.wf_store hma hb) (Memory.wf_store hmb ha) fun k => ?_
  by_cases hk : k < b
  · rw [Memory.read_store_outside hma hb (.inl hk), Memory.read_store hm ha, Memory.read_store hmb ha,
      Memory.read_store_outside hm hb (.inl hk)]
  · rw [Memory.read_store_outside hmb ha (.inr (by omega)), Memory.read_store hm hb, Memory.read_store hma hb,
      Memory.read_store_outside hm ha (.inr (by omega))]

/-- Settles O43: a program too long is rejected in either order; one that fits is stored behind the font. -/
theorem fontAndProgramCommute : Obligations.FontAndProgramCommute := by
  intro bytes s hm
  by_cases h : bytes.length ≤ 3584
  · have hfont : 0 + Config.font.length ≤ 0x200 := by decide
    have hcomm := store_store_disjoint hm font_fits_memory (program_fits_memory h) hfont
    simp only [loadProgram_fits _ h, loadFontSet_eq, hcomm]
  · simp only [loadProgram_tooLong _ (Nat.not_le.mp h)]

/-! ### `POWER_ON`, `SET_KEY`, `CLEAR_DRAW_FLAG` -/

theorem perform_powerOn (s : State) : perform .powerOn s = .next (.none, { State.reset with draws := s.draws }) := rfl

/-- Settles O40: the operation leaves `State.reset` with the counter kept. -/
theorem powerOnValues : Obligations.PowerOnValues := by
  intro s
  refine ⟨_, perform_powerOn s, ?_, rfl, rfl, ?_, rfl, rfl, rfl, cellAt_cleared, ?_, rfl, fun _ => rfl, rfl, rfl, rfl, rfl,
    rfl, rfl⟩
  · exact fun r => Vector.getElem_replicate r.isLt
  · exact fun k => Vector.getElem_replicate k.isLt
  · exact fun k => Vector.getElem_replicate k.isLt

/-- Settles O44: each of the two is one write of its part. -/
theorem keyAndDrawFlagOperations : Obligations.KeyAndDrawFlagOperations := by
  intro s k b
  refine ⟨⟨setKey k b s, rfl, ?_, ?_, sameBut_keys_setKey k b s⟩, clearDrawFlag s, rfl, rfl,
    sameBut_drawFlag_clearDrawFlag s⟩
  · exact Vector.getElem_set_self k.isLt
  · exact fun j hj => Vector.getElem_set_ne k.isLt j.isLt fun hkj => hj (Fin.ext hkj.symm)

/-! ### Boot and frame -/

/-- Below 0x200 `LOAD_PROGRAM` changes nothing, whether it copies or rejects. -/
theorem read_loadProgram_below {bytes : List Byte} {s : State} (hm : s.mem.wf = true) {a : Nat} (ha : a < 0x200) :
    (loadProgram bytes s).2.mem.read a = s.mem.read a := by
  by_cases h : bytes.length ≤ 3584
  · exact read_loadProgram_outside hm h (.inl ha)
  · rw [loadProgram_tooLong s (Nat.not_le.mp h)]

/-- What `POWER_ON` and `INITIALIZE` leave: the reset state with the font at 0 to 79. -/
theorem performAll_powerOn_loadFontSet (s : State) :
    ∃ f, performAll [.powerOn, .loadFontSet] s = .next ([.none, .none], f) ∧
      SameBut [.mem, .draws] State.reset f ∧ f.draws = s.draws ∧ f.mem.wf = true ∧
      (∀ a (h : a < Config.font.length), f.mem.read a = Config.font[a]) ∧ ∀ a, 80 ≤ a → f.mem.read a = 0 := by
  have hreset : ({ State.reset with draws := s.draws } : State).mem.wf = true := rfl
  refine ⟨loadFontSet { State.reset with draws := s.draws }, ?_, ?_, ?_, ?_, ?_, ?_⟩
  · exact performAll_cons (perform_powerOn s) (performAll_cons (perform_loadFontSet _) (performAll_nil _))
  · exact sameBut_mono (sameBut_trans (sameBut_draws_reset s.draws) (sameBut_mem_loadFontSet _)) (by simp)
  · exact loadFontSet_draws _
  · exact wf_loadFontSet hreset
  · exact fun a h => read_loadFontSet_font hreset h
  · exact fun a h => read_loadFontSet_above hreset h

/-- Settles O45: the font is stored over zeros, and the program behind it, or it is rejected. -/
theorem bootLoadsFontAndProgram : Obligations.BootLoadsFontAndProgram := by
  intro bytes s
  obtain ⟨f, hf, hframe, hdraws, hm, hfont, hzero⟩ := performAll_powerOn_loadFontSet s
  have hload := sameBut_mem_loadProgram bytes f
  refine ⟨(loadProgram bytes f).2, sameBut_mono (sameBut_trans hframe hload) (by simp),
    (hload .draws (by decide)).trans hdraws, wf_loadProgram hm, fun a ha => ?_, fun a ha ha' => ?_, ?_⟩
  · rw [read_loadProgram_below hm (by rw [length_font] at ha; omega), hfont a ha]
  · rw [read_loadProgram_below hm ha', hzero a ha]
  · by_cases h : bytes.length ≤ 3584
    · have hall := performAll_append hf (performAll_cons (perform_loadProgram_fits f h) (performAll_nil _))
      refine .inl ⟨h, hall, fun k hk => read_loadProgram_program hm h hk, fun a ha => ?_⟩
      rw [read_loadProgram_outside hm h (.inr ha), hzero a (by omega)]
    · have h' := Nat.not_le.mp h
      have hall := performAll_append hf (performAll_cons (perform_loadProgram_tooLong f h') (performAll_nil _))
      rw [loadProgram_tooLong f h']
      exact .inr ⟨h', hall, fun a ha => hzero a (by omega)⟩

/-- `n` steps answer `n` times and leave what a run of `n` steps leaves. -/
theorem performAll_steps (n : Nat) (s : State) :
    ∃ (u : State) (rs : List Response), Host.Core.run Sys2Proof.core n s = .next u ∧ rs.length = n ∧
      performAll (List.replicate n .step) s = .next (rs, u) := by
  induction n generalizing s with
  | zero => exact ⟨s, [], rfl, rfl, rfl⟩
  | succ n ih =>
    obtain ⟨t, ht⟩ := step_total s
    obtain ⟨u, rs, hrun, hlen, hall⟩ := ih t
    exact ⟨u, stepResponse t :: rs, (core_run_succ ht).trans hrun, congrArg (· + 1) hlen,
      performAll_cons (perform_step ht) hall⟩

/-- Settles O46: the steps of the frame and then its tick. -/
theorem frameIsStepsThenOneTick : Obligations.FrameIsStepsThenOneTick := by
  intro d s
  obtain ⟨u, rs, hrun, hlen, hall⟩ := performAll_steps d.ipf s
  have htick := performAll_cons (perform_tickTimers u) (performAll_nil _)
  exact ⟨u, (tickTimers u).2, rs, hrun, hlen, performAll_append hall htick, toNat_countDown u.dt, toNat_countDown u.st,
    sameBut_dt_st_tickTimers u⟩

/-! ### The latch -/

/-- Settles O47: a step of a halted machine changes nothing, and the latch is outside the frame of every other operation. -/
theorem onlyPowerOnClearsFault : Obligations.OnlyPowerOnClearsFault := by
  intro op s t r hh hop h
  have hlatch : Part.latch.same s t := by
    cases op
    case powerOn => exact absurd rfl hop
    case step =>
      obtain rfl := Host.Outcome.next.inj ((step_halted hh).symm.trans (step_of_perform h))
      exact part_same_refl s .latch
    all_goals obtain ⟨-, rfl⟩ := Prod.mk.inj (Host.Outcome.next.inj h)
    case loadFontSet => exact sameBut_mem_loadFontSet s .latch (by decide)
    case loadProgram bytes => exact sameBut_mem_loadProgram bytes s .latch (by decide)
    case tickTimers => exact sameBut_dt_st_tickTimers s .latch (by decide)
    case setKey k b => exact sameBut_keys_setKey k b s .latch (by decide)
    case clearDrawFlag => exact sameBut_drawFlag_clearDrawFlag s .latch (by decide)
  obtain ⟨hhalted, hrecord⟩ := hlatch
  exact ⟨hhalted.trans hh, hrecord⟩

end Sys2Proof.Proofs
end

section
/-! PROOFS. The invariant of R32: it holds at reset, and every step and every host operation keeps it. -/

namespace Sys2Proof.Proofs

open Sys2Proof.Machine Sys2Proof.Claims

/-! ### A step keeps the invariant -/

/-- Taking a fault keeps the invariant: it writes the latch alone, with a code and the `pc` it is taken at. -/
theorem inv_raise {c : FaultCode} {n : Nat} {s : State} (h : Inv s) (hc : c ≠ .none) : Inv (raise c n s) where
  memCanonical := h.memCanonical
  pcBound := h.pcBound
  stackEntries := h.stackEntries
  latchClear := fun hr => absurd hr (by simp)
  latchSet := fun _ => ⟨hc, rfl⟩

theorem code_ne_none_of_check_failed {i : Instr} {s : State} {c : FaultCode} {n : Nat} (h : instrFault s i = some (c, n)) :
    c ≠ .none := by
  rintro rfl
  cases i <;> simp [instrFault] at h

theorem code_ne_none_of_stepFault {s : State} {c : FaultCode} {n : Nat} (h : stepFault s = some (c, n)) : c ≠ .none := by
  unfold stepFault at h
  split at h
  · cases h
    decide
  · split at h
    · cases h
      decide
    · exact code_ne_none_of_check_failed h

/-- An effect keeps memory canonical. -/
theorem wf_effect {i : Instr} {s : State} (hm : s.mem.wf = true) (hf : instrFault s i = none) :
    (effect i s).mem.wf = true := by
  cases i
  case ldB x =>
    have hin : ¬ 4095 < s.i.toNat + 2 := by simpa [instrFault] using hf
    exact wf_storeAtIndex hm (spanInside_iff.mpr (.inr (by rw [length_decimalDigits]; omega)))
  case stRegs x =>
    have hin : ¬ 4095 < s.i.toNat + x.val := by simpa [instrFault] using hf
    exact wf_storeAtIndex hm (spanInside_iff.mpr (.inr (by rw [length_registersUpTo]; omega)))
  case ldVxK x =>
    simp only [effect]
    cases firstPressed s.keys <;> exact hm
  all_goals exact hm

/-- The stack stays one of addresses that can be fetched: a call pushes the `pc` it was fetched at (D4). -/
theorem stackEntries_effect {i : Instr} {s : State} (hp : s.pc.toNat ≤ 4094) (hf : instrFault s i = none)
    (hs : ∀ k : Fin 16, k.val < s.sp.val → s.stack[k].toNat ≤ 4094) :
    ∀ k : Fin 16, k.val < (effect i s).sp.val → (effect i s).stack[k].toNat ≤ 4094 := by
  by_cases hst : .stack ∈ mayWrite i
  · cases i
    case ret => exact fun k hk => hs k (Nat.lt_of_lt_of_le hk (Nat.sub_le _ 1))
    case call nnn =>
      intro k hk
      have hfull : s.sp.val ≠ 16 := by simpa [instrFault] using hf
      have hnext : (s.sp + 1).val = s.sp.val + 1 := Fin.val_add_one_of_lt' (by omega)
      have hlt : k.val < s.sp.val + 1 := hnext ▸ hk
      have hget : (effect (.call nnn) s).stack[k] = if s.sp.val = k.val then s.pc else s.stack[k] :=
        Vector.getElem_setIfInBounds k.isLt
      rw [hget]
      split
      · exact hp
      · exact hs k (by omega)
    all_goals simp [mayWrite] at hst
  · obtain ⟨hstack, hsp⟩ := part_same_effect s (p := .stack) (by decide) hst
    rw [hstack, hsp]
    exact hs

/-- From a fetched instruction `pc` goes no further than 0x10FE, which Bnnn reaches (D2). -/
theorem pcBound_effect {i : Instr} {s : State} (hp : s.pc.toNat ≤ 4094) (hf : instrFault s i = none)
    (hs : ∀ k : Fin 16, k.val < s.sp.val → s.stack[k].toNat ≤ 4094) : (effect i s).pc.toNat ≤ 0x10FE := by
  have hadvance : (s.pc + 2).toNat ≤ 0x10FE := by bv_omega
  have hskip : ∀ c : Bool, (s.pc + if c then 4 else 2).toNat ≤ 0x10FE := by
    intro c
    cases c <;> simp only [Bool.false_eq_true, if_true, if_false] <;> bv_omega
  cases i
  case ret =>
    have hsp : s.sp.val ≠ 0 := by simpa [instrFault] using hf
    have hcall : (s.stack[s.sp.val - 1]'(by omega)).toNat ≤ 4094 := hs ⟨s.sp.val - 1, by omega⟩ (by simp only; omega)
    have hpc : (effect .ret s).pc = s.stack[s.sp.val - 1]'(by omega) + 2 := rfl
    rw [hpc]
    bv_omega
  case jp | call => exact (toNat_zextAddr _).trans_le (by omega)
  case jpV0 nnn => exact (toNat_zextAddr_add_zextByte _ _).trans_le (by omega)
  case seImm | sneImm | seReg | sneReg | skp | sknp => exact hskip _
  case ldVxK x =>
    cases hk : firstPressed s.keys with
    | none => simp only [effect, hk]; omega
    | some k => simp only [effect, hk]; exact hadvance
  all_goals exact hadvance

/-- Settles O55: a fault writes only the latch; an effect leaves it and keeps the three bounds. -/
theorem stepKeepsInvariant : Obligations.StepKeepsInvariant := by
  intro s t hinv h
  obtain ⟨-, rfl⟩ | ⟨-, c, n, hf, rfl⟩ | ⟨hr, hp, i, hf, rfl⟩ := step_outcomes h
  · exact hinv
  · exact inv_raise hinv (code_ne_none_of_stepFault hf)
  · obtain ⟨hm, -, hstack, hclear, -⟩ := hinv
    obtain ⟨hhalted, hcode, hpc, hinfo⟩ := latch_same_effect i s
    have hrun : (effect i s).halted = false := hhalted.trans hr
    exact
      { memCanonical := wf_effect hm hf
        pcBound := pcBound_effect hp hf hstack
        stackEntries := stackEntries_effect hp hf hstack
        latchClear := fun _ => by rw [hcode, hpc, hinfo]; exact hclear hr
        latchSet := fun hh => absurd (hrun.symm.trans hh) Bool.false_ne_true }

/-! ### Every operation and every reachable state -/

/-- Settles O54: memory is empty, the stack is empty, the latch is clear. -/
theorem resetMeetsInvariant : Obligations.ResetMeetsInvariant where
  memCanonical := rfl
  pcBound := by decide
  stackEntries := fun _ hk => absurd hk (Nat.not_lt_zero _)
  latchClear := fun _ => ⟨rfl, rfl, rfl⟩
  latchSet := fun hh => absurd hh Bool.false_ne_true

/-- An operation that changes none of the parts the invariant speaks of but memory keeps it if memory stays canonical. -/
theorem inv_of_sameBut {l : List Part} {s t : State} (h : Inv s) (hframe : SameBut l s t)
    (hpc : .pc ∉ l) (hstack : .stack ∉ l) (hlatch : .latch ∉ l) (hm : t.mem.wf = true) : Inv t := by
  obtain ⟨-, hbound, hentries, hclear, hset⟩ := h
  obtain ⟨hst, hsp⟩ := hframe .stack hstack
  obtain ⟨hh, hcode, hfpc, hinfo⟩ := hframe .latch hlatch
  have hpc' : t.pc = s.pc := hframe .pc hpc
  refine ⟨hm, ?_, ?_, ?_, ?_⟩
  · rwa [hpc']
  · rwa [hst, hsp]
  · rwa [hh, hcode, hfpc, hinfo]
  · rwa [hh, hcode, hfpc, hpc']

/-- Settles O57: `POWER_ON` leaves the reset values, and no other operation but `STEP` writes `pc`, the stack or the latch. -/
theorem everyOperationKeepsInvariant : Obligations.EveryOperationKeepsInvariant := by
  intro op s t r hinv h
  cases op
  case step => exact stepKeepsInvariant s t hinv (step_of_perform h)
  all_goals obtain ⟨-, rfl⟩ := Prod.mk.inj (Host.Outcome.next.inj h)
  case powerOn =>
    obtain ⟨hm, hpc, hentries, hclear, hset⟩ := resetMeetsInvariant
    exact ⟨hm, hpc, hentries, hclear, hset⟩
  case loadFontSet =>
    exact inv_of_sameBut hinv (sameBut_mem_loadFontSet s) (by decide) (by decide) (by decide)
      (wf_loadFontSet hinv.memCanonical)
  case loadProgram bytes =>
    exact inv_of_sameBut hinv (sameBut_mem_loadProgram bytes s) (by decide) (by decide) (by decide)
      (wf_loadProgram hinv.memCanonical)
  case tickTimers =>
    exact inv_of_sameBut hinv (sameBut_dt_st_tickTimers s) (by decide) (by decide) (by decide) hinv.memCanonical
  case setKey k b =>
    exact inv_of_sameBut hinv (sameBut_keys_setKey k b s) (by decide) (by decide) (by decide) hinv.memCanonical
  case clearDrawFlag =>
    exact inv_of_sameBut hinv (sameBut_drawFlag_clearDrawFlag s) (by decide) (by decide) (by decide) hinv.memCanonical

/-- Settles O56: reset meets the invariant and every operation keeps it. -/
theorem reachableStatesMeetInvariant : Obligations.ReachableStatesMeetInvariant := by
  intro s h
  induction h with
  | reset => exact resetMeetsInvariant
  | perform _ hop ih => exact everyOperationKeepsInvariant _ _ _ _ ih hop

end Sys2Proof.Proofs
end

section
/-! PROOFS. Flow of control: Bnnn, and the calls and returns over the stack (R85, R87, R92, R93). -/

namespace Sys2Proof.Proofs

open Sys2Proof.Machine Sys2Proof.Claims

theorem exec_jpV0 (nnn : Addr) (s : State) :
    exec (.jpV0 nnn) s = .next (jumpTo (zextAddr nnn + zextByte s.v[(0 : Reg)]) s) := rfl

/-- Settles O11: the meaning is one `jumpTo`, whose target does not wrap. -/
theorem indexedJumpKeepsWholeSum : Obligations.IndexedJumpKeepsWholeSum := by
  intro nnn s
  exact ⟨_, exec_jpV0 nnn s, toNat_zextAddr_add_zextByte nnn _, sameBut_pc_jumpTo _ s⟩

/-- A change of the stack followed by a jump. -/
theorem sameBut_pc_stack_jumpTo (w : Word) (st : Vector Word 16) (n : Fin 17) (s : State) :
    SameBut [.pc, .stack] s (jumpTo w { s with stack := st, sp := n }) :=
  sameBut_mono (sameBut_trans (sameBut_stack st n s) (sameBut_pc_jumpTo w _)) (by simp)

/-- Settles O13: the entry at `SP` is written and no other. -/
theorem callPushesItsAddress : Obligations.CallPushesItsAddress := by
  intro nnn s h
  refine ⟨_, exec_call_room h, toNat_zextAddr nnn, rfl, fun k => ⟨fun hk => ?_, fun hk => ?_⟩,
    sameBut_pc_stack_jumpTo _ _ _ s⟩
  · exact (Vector.getElem_set h k.isLt).trans (if_pos hk.symm)
  · exact Vector.getElem_set_ne h k.isLt (Ne.symm hk)

/-- Settles O14: the entry popped is the one below `SP`. -/
theorem returnGoesBehindCall : Obligations.ReturnGoesBehindCall := by
  intro s k h
  have htop : s.sp.val - 1 = k.val := by omega
  refine ⟨_, exec_ret_some (by omega), ?_, htop, rfl, sameBut_pc_stack_jumpTo _ s.stack _ s⟩
  simp [htop]

/-- Settles O15: each of the two is the instruction's own check failing. -/
theorem stackEndsFault : Obligations.StackEndsFault :=
  ⟨fun _ s h => ⟨_, exec_call_full h, faultTaken_raise _ _ s⟩,
    fun s h => ⟨_, exec_ret_empty h, faultTaken_raise _ _ s⟩⟩

/-- Settles O16: the return pops the entry the call pushed (O13, O14). -/
theorem callReturnRoundTrip : Obligations.CallReturnRoundTrip := by
  intro nnn s s₁ u hroom hcall hsp hentry
  obtain ⟨t₁, hcall', -, hsp₁, hpushed, -⟩ := callPushesItsAddress nnn s hroom
  obtain rfl := Host.Outcome.next.inj (hcall'.symm.trans hcall)
  obtain ⟨t, hret, hpc, hspt, -⟩ := returnGoesBehindCall u ⟨s.sp.val, hroom⟩ (by rw [hsp, hsp₁])
  refine ⟨t, hret, ?_, Fin.ext hspt⟩
  rw [hpc, hentry _ rfl, (hpushed _).1 rfl]

end Sys2Proof.Proofs
end

section
/-!
PROOFS. The arithmetic that writes VF beside its result, the random byte, and the arithmetic on I (R107 to R112, R121, R122).
-/

namespace Sys2Proof.Proofs

open Sys2Proof.Machine Sys2Proof.Claims

/-! ### A result and then its flag -/

theorem sameBut_v_pc_advance_writeFlag_writeV (s : State) (x : Reg) (b : Byte) (c : Bool) :
    SameBut [.v, .pc] s (advance (writeFlag (writeV s x b) c)) :=
  sameBut_mono (sameBut_advance (sameBut_trans (sameBut_writeV s x b) (sameBut_writeFlag _ c))) (by simp)

/-- A flag byte is 1 where its condition holds and 0 where it does not. -/
theorem flagByte_cases {c : Bool} {P : Prop} (hc : c = true ↔ P) :
    (P ∧ flagByte c = 1) ∨ (¬ P ∧ flagByte c = 0) := by
  cases c with
  | true => exact .inl ⟨hc.mp rfl, rfl⟩
  | false => exact .inr ⟨fun hP => Bool.false_ne_true (hc.mpr hP), rfl⟩

/-- The result goes to `V[x]`, then the flag to VF, which is what VF keeps even for `x` = 15. -/
theorem writesWithFlag_advance {x : Reg} {b : Byte} {n : Nat} {c : Bool} {P : Prop} (s : State) (hb : b.toNat = n)
    (hc : c = true ↔ P) : WritesWithFlag x n P s (advance (writeFlag (writeV s x b) c)) := by
  refine ⟨fun hx => ?_, ?_, fun r hr => ?_, rfl, sameBut_v_pc_advance_writeFlag_writeV s x b c⟩
  · rw [← hb, advance_v, writeFlag_get_other hx, writeV_get_same]
  · rw [advance_v, writeFlag_get_flag]
    exact flagByte_cases hc
  · obtain ⟨hx, hf⟩ := not_or.mp hr
    rw [advance_v, writeFlag_get_other hf, writeV_get_other hx]

theorem exec_addReg (x y : Reg) (s : State) : exec (.addReg x y) s =
    .next (advance (writeFlag (writeV s x (s.v[x] + s.v[y])) (carryOut s.v[x] s.v[y]))) := rfl

theorem exec_sub (x y : Reg) (s : State) : exec (.sub x y) s =
    .next (advance (writeFlag (writeV s x (s.v[x] - s.v[y])) (noBorrow s.v[x] s.v[y]))) := rfl

theorem exec_subn (x y : Reg) (s : State) : exec (.subn x y) s =
    .next (advance (writeFlag (writeV s x (s.v[y] - s.v[x])) (noBorrow s.v[y] s.v[x]))) := rfl

/-- The difference of two bytes as R108 and R110 compute it. -/
theorem toNat_sub_byte (a b : Byte) : (a - b).toNat = (256 + a.toNat - b.toNat) % 256 := by
  bv_omega

/-- Settles O19: each of the three is a result and then its flag. -/
theorem addAndSubtractWithFlag : Obligations.AddAndSubtractWithFlag := by
  intro x y s
  refine ⟨⟨_, exec_addReg x y s, ?add⟩, ⟨_, exec_sub x y s, ?sub⟩, ⟨_, exec_subn x y s, ?subn⟩⟩
  case add => exact writesWithFlag_advance s (BitVec.toNat_add _ _) carryOut_iff
  case sub => exact writesWithFlag_advance s (toNat_sub_byte _ _) noBorrow_iff
  case subn => exact writesWithFlag_advance s (toNat_sub_byte _ _) noBorrow_iff

/-! ### The flag and then a shift -/

theorem exec_shr (x y : Reg) (s : State) :
    exec (.shr x y) s = .next (advance (shiftRightV x (writeFlag s (lowBit s.v[x])))) := rfl

theorem exec_shl (x y : Reg) (s : State) :
    exec (.shl x y) s = .next (advance (shiftLeftV x (writeFlag s (topBit s.v[x])))) := rfl

theorem sameBut_v_pc_advance_writeV_writeFlag (s : State) (x : Reg) (b : Byte) (c : Bool) :
    SameBut [.v, .pc] s (advance (writeV (writeFlag s c) x b)) :=
  sameBut_mono (sameBut_advance (sameBut_trans (sameBut_writeFlag s c) (sameBut_writeV _ x b))) (by simp)

theorem sameRegsBut_advance_writeV_writeFlag (s : State) (x : Reg) (b : Byte) (c : Bool) :
    SameRegsBut (fun r => r = x ∨ r = 15) s (advance (writeV (writeFlag s c) x b)) := by
  intro r hr
  obtain ⟨hx, hf⟩ := not_or.mp hr
  rw [advance_v, writeV_get_other hx, writeFlag_get_other hf]

/-- For `x` other than 15 the shift reads the old `V[x]`, and the flag stays in VF. -/
theorem getElem_writeV_writeFlag {x : Reg} (hx : x ≠ 15) (s : State) (f : Byte → Byte) (c : Bool) :
    (writeV (writeFlag s c) x (f (readV (writeFlag s c) x))).v[x] = f s.v[x] ∧
    (writeV (writeFlag s c) x (f (readV (writeFlag s c) x))).v[(15 : Reg)] = flagByte c := by
  have hread : readV (writeFlag s c) x = s.v[x] := writeFlag_get_other hx s c
  rw [writeV_get_same, writeV_get_other hx.symm, writeFlag_get_flag, hread]
  exact ⟨rfl, rfl⟩

/-- For `x` = 15 the shift reads the flag just written (D12). -/
theorem getElem_writeV_writeFlag_flagReg (s : State) (f : Byte → Byte) (c : Bool) :
    (writeV (writeFlag s c) 15 (f (readV (writeFlag s c) 15))).v[(15 : Reg)] = f (flagByte c) := by
  have hread : readV (writeFlag s c) 15 = flagByte c := writeFlag_get_flag s c
  rw [writeV_get_same, hread]

/-- Settles O20: VF is written before the shift reads `V[x]`, which matters for `x` = 15 alone. -/
theorem shiftsWithFlag : Obligations.ShiftsWithFlag := by
  intro x y s
  have hframe := sameBut_v_pc_advance_writeV_writeFlag s x
  have hregs := sameRegsBut_advance_writeV_writeFlag s x
  refine ⟨⟨_, exec_shr x y s, rfl, hframe _ _, hregs _ _, fun hx => ?right, ?rightVF⟩,
    ⟨_, exec_shl x y s, rfl, hframe _ _, hregs _ _, fun hx => ?left, ?leftVF⟩⟩
  case right =>
    obtain ⟨hres, hflag⟩ := getElem_writeV_writeFlag hx s (· >>> 1) (lowBit s.v[x])
    exact ⟨(congrArg BitVec.toNat hres).trans (by simp [Nat.shiftRight_eq_div_pow]),
      (congrArg BitVec.toNat hflag).trans (toNat_flagByte_lowBit _)⟩
  case rightVF =>
    rintro rfl
    refine (getElem_writeV_writeFlag_flagReg s (· >>> 1) _).trans ?_
    cases lowBit s.v[(15 : Reg)] <;> rfl
  case left =>
    obtain ⟨hres, hflag⟩ := getElem_writeV_writeFlag hx s (· <<< 1) (topBit s.v[x])
    exact ⟨(congrArg BitVec.toNat hres).trans (by simp [Nat.shiftLeft_eq, Nat.mul_comm]),
      (congrArg BitVec.toNat hflag).trans (toNat_flagByte_topBit _)⟩
  case leftVF =>
    rintro rfl
    rw [← toNat_flagByte_topBit]
    refine (congrArg BitVec.toNat (getElem_writeV_writeFlag_flagReg s (· <<< 1) _)).trans ?_
    cases topBit s.v[(15 : Reg)] <;> rfl

/-! ### The random byte -/

theorem exec_rnd (x : Reg) (nn : Byte) (s : State) :
    exec (.rnd x nn) s = .next (advance (writeV (consumeDraw s) x (Config.freeByte s.draws &&& nn))) := rfl

/-- Settles O21: one register write in a state whose counter has gone on. -/
theorem randomByteIsMasked : Obligations.RandomByteIsMasked := by
  intro x nn s
  obtain ⟨hval, hregs, hpc, hframe⟩ := writesOnly_advance_writeV (consumeDraw s) x (Config.freeByte s.draws &&& nn)
  refine ⟨_, exec_rnd x nn s, hval, ?_, rfl, hregs, hpc, sameBut_mono (sameBut_trans (sameBut_consumeDraw s) hframe) (by simp)⟩
  rw [hval, BitVec.and_assoc, BitVec.and_not_self]
  exact BitVec.and_zero

/-! ### The index register -/

theorem exec_addI (x : Reg) (s : State) : exec (.addI x) s =
    .next (advance (writeFlag (writeIndex (s.i + zextByte s.v[x]) s) (indexOverflow s.i s.v[x]))) := rfl

theorem exec_ldF (x : Reg) (s : State) :
    exec (.ldF x) s = .next (advance (writeIndex (zextByte s.v[x] * 5) s)) := rfl

/-- Settles O23: an index write, behind which Fx1E writes its flag; five times a byte does not wrap. -/
theorem indexArithmetic : Obligations.IndexArithmetic := by
  intro x s
  refine ⟨⟨_, exec_addI x s, ?sum, ?flag, ?regs, rfl, ?frame⟩, ⟨_, exec_ldF x s, ?glyph, rfl,
    sameBut_i_pc_advance_writeIndex _ s⟩⟩
  case sum =>
    rw [advance_i, writeFlag_i, writeIndex_i, BitVec.toNat_add, toNat_zextByte]
  case flag =>
    rw [advance_v, writeFlag_get_flag]
    exact (flagByte_cases indexOverflow_iff).imp_right (And.imp_left Nat.not_lt.mp)
  case regs => exact fun r hr => writeFlag_get_other hr _ _
  case frame =>
    exact sameBut_mono (sameBut_advance (sameBut_trans (sameBut_writeIndex _ s) (sameBut_writeFlag _ _))) (by simp)
  case glyph =>
    rw [advance_i, writeIndex_i, BitVec.toNat_mul, toNat_zextByte]
    have := s.v[x].isLt
    simp only [BitVec.reduceToNat]
    omega

end Sys2Proof.Proofs
end

section
/-!
PROOFS. Transfers between memory and registers: Fx33, Fx55, Fx65, their bounds, and the fetch behind a store (R46, R53, R123 to
R126).
-/

namespace Sys2Proof.Proofs

open Sys2Proof.Machine Sys2Proof.Claims

/-! ### The meanings inside the memory -/

theorem exec_ldB_within (x : Reg) {s : State} (h : s.i.toNat + 2 ≤ 4095) :
    exec (.ldB x) s = .next (advance (storeAtIndex (decimalDigits s.v[x]) s)) :=
  exec_of_check_passed (if_neg (Nat.not_lt.mpr h))

theorem exec_stRegs_within {x : Reg} {s : State} (h : s.i.toNat + x.val ≤ 4095) :
    exec (.stRegs x) s = .next (advance (storeAtIndex (registersUpTo x s) s)) :=
  exec_of_check_passed (if_neg (Nat.not_lt.mpr h))

theorem exec_ldRegs_within {x : Reg} {s : State} (h : s.i.toNat + x.val ≤ 4095) :
    exec (.ldRegs x) s = .next (advance (loadAtIndex x s)) :=
  exec_of_check_passed (if_neg (Nat.not_lt.mpr h))

/-! ### What every address reads as after a store -/

theorem readAfterStore_stored {count k : Nat} (h : k < count) (m : Memory) (base : Nat) (b : Nat → Byte) :
    readAfterStore m base count b (base + k) = b k := by
  rw [readAfterStore, if_pos (by omega), Nat.add_sub_cancel_left]

theorem readAfterStore_outside {base count a : Nat} (h : a < base ∨ base + count ≤ a) (m : Memory) (b : Nat → Byte) :
    readAfterStore m base count b a = m.read a := by
  rw [readAfterStore, if_neg (by omega)]

theorem read_storeAtIndex {bs : List Byte} {s : State} {b : Nat → Byte} (hm : s.mem.wf = true)
    (hin : s.i.toNat + bs.length ≤ 4096) (hb : ∀ k (h : k < bs.length), bs[k] = b k) (a : Nat) :
    (storeAtIndex bs s).mem.read a = readAfterStore s.mem s.i.toNat bs.length b a := by
  by_cases h : s.i.toNat ≤ a ∧ a < s.i.toNat + bs.length
  · rw [readAfterStore, if_pos h, storeAtIndex_mem, Memory.read_store hm hin, dif_pos ⟨h.1, by omega⟩, hb]
  · have hout : a < s.i.toNat ∨ s.i.toNat + bs.length ≤ a := by omega
    rw [readAfterStore_outside hout, read_storeAtIndex_outside hm hin hout]

/-- The three bytes Fx33 stores are the decimal digits (R123): the hundreds of a byte are below 10. -/
theorem getElem_decimalDigits (b : Byte) (k : Nat) (h : k < (decimalDigits b).length) :
    (decimalDigits b)[k] = decimalDigit b k := by
  have hhundreds : b.toNat / 100 % 10 = b.toNat / 100 := by omega
  match k, h with
  | 0, _ => exact congrArg (BitVec.ofNat 8) hhundreds.symm
  | 1, _ => rfl
  | 2, _ => exact congrArg (fun n => BitVec.ofNat 8 (n % 10)) (Nat.div_one _).symm

theorem read_ldB {x : Reg} {s : State} (hm : s.mem.wf = true) (hin : s.i.toNat + 2 ≤ 4095) (a : Nat) :
    (storeAtIndex (decimalDigits s.v[x]) s).mem.read a =
      readAfterStore s.mem s.i.toNat 3 (decimalDigit s.v[x]) a :=
  read_storeAtIndex hm (by rw [length_decimalDigits]; omega) (getElem_decimalDigits _) a

theorem read_stRegs {x : Reg} {s : State} (hm : s.mem.wf = true) (hin : s.i.toNat + x.val ≤ 4095) (a : Nat) :
    (storeAtIndex (registersUpTo x s) s).mem.read a =
      readAfterStore s.mem s.i.toNat (x.val + 1) (fun k => s.v[k]?.getD 0) a := by
  have hregs : ∀ k (h : k < (registersUpTo x s).length), (registersUpTo x s)[k] = s.v[k]?.getD 0 := by
    intro k h
    have hk : k < 16 := by
      rw [length_registersUpTo] at h
      omega
    rw [getElem_registersUpTo, Vector.getElem?_eq_getElem hk, Option.getD_some]
  rw [read_storeAtIndex hm (by rw [length_registersUpTo]; omega) hregs, length_registersUpTo]

/-! ### The statements -/

/-- A digit as a number. -/
theorem toNat_decimalDigit (b : Byte) (k : Nat) : (decimalDigit b k).toNat = b.toNat / 10 ^ (2 - k) % 10 := by
  have hdigit : b.toNat / 10 ^ (2 - k) % 10 < 10 := Nat.mod_lt _ (by decide)
  rw [decimalDigit, BitVec.toNat_ofNat, Nat.mod_eq_of_lt (by omega)]

/-- A store and an advance. -/
theorem sameBut_mem_pc_advance_storeAtIndex (bs : List Byte) (s : State) :
    SameBut [.mem, .pc] s (advance (storeAtIndex bs s)) := sameBut_advance (sameBut_storeAtIndex bs s)

/-- Settles O24: the meaning is one store of the three digits. -/
theorem decimalDigitsStored : Obligations.DecimalDigitsStored := by
  intro x s hm hin
  have hread := read_ldB (x := x) hm hin
  have hdigit : ∀ k < 3, (storeAtIndex (decimalDigits s.v[x]) s).mem.read (s.i.toNat + k) = decimalDigit s.v[x] k :=
    fun k hk => (hread _).trans (readAfterStore_stored hk _ _ _)
  have hpass : instrFault s (.ldB x) = none := if_neg (Nat.not_lt.mpr hin)
  refine ⟨_, exec_ldB_within x hin, ?_, ?_, ?_, fun a ha => ?_, wf_effect hm hpass, rfl,
    sameBut_mem_pc_advance_storeAtIndex _ s⟩
  · have hhundreds : s.v[x].toNat / 10 ^ 2 % 10 = s.v[x].toNat / 100 := by omega
    rw [← hhundreds, ← toNat_decimalDigit s.v[x] 0, ← hdigit 0 (by decide)]
    rfl
  · rw [advance_mem, hdigit 1 (by decide), toNat_decimalDigit]
    rfl
  · rw [advance_mem, hdigit 2 (by decide), toNat_decimalDigit]
    exact congrArg (· % 10) (Nat.div_one _)
  · exact (hread a).trans (readAfterStore_outside ha _ _)

/-- Settles O25: the meaning is one store of the registers up to `x`. -/
theorem registersStored : Obligations.RegistersStored := by
  intro x s hm hin
  have hread := read_stRegs hm hin
  have hpass : instrFault s (.stRegs x) = none := if_neg (Nat.not_lt.mpr hin)
  refine ⟨_, exec_stRegs_within hin, fun j hj => ?_, fun a ha => ?_, wf_effect hm hpass, rfl,
    sameBut_mem_pc_advance_storeAtIndex _ s⟩
  · rw [advance_mem, hread, readAfterStore_stored (Nat.lt_succ_of_le hj)]
    simp
  · exact (hread a).trans (readAfterStore_outside ha _ _)

/-- Settles O26: the meaning is one rewrite of the register file. -/
theorem registersLoaded : Obligations.RegistersLoaded := by
  intro x s hin
  have hget := getElem_loadedRegisters x s.mem s.i.toNat s.v
  exact ⟨_, exec_ldRegs_within hin, fun j hj => (hget j).trans (if_pos hj), fun j hj => (hget j).trans (if_neg hj), rfl,
    sameBut_advance (sameBut_loadAtIndex x s)⟩

/-- Settles O27: what Fx55 stored (O25) is what Fx65 loads (O26). -/
theorem storeThenLoadRestores : Obligations.StoreThenLoadRestores := by
  intro x s s₁ u hm hin hstore hi hkept
  obtain ⟨t₁, hstore', hstored, -⟩ := registersStored x s hm hin
  obtain rfl := Host.Outcome.next.inj (hstore'.symm.trans hstore)
  obtain ⟨t, hload, hloaded, -⟩ := registersLoaded x u (hi ▸ hin)
  refine ⟨t, hload, fun j hj => ?_⟩
  have hj' : j.val ≤ x.val := hj
  rw [hloaded j hj, hi, hkept _ (by omega) (by omega), hstored j hj]

/-- Settles O28: each is the instruction's own check failing. -/
theorem accessOutsideRaisesMemBounds : Obligations.AccessOutsideRaisesMemBounds := by
  intro x y n s
  refine ⟨fun h => ?_, fun h => ?_, fun h => ?_, fun hn h => ?_⟩
  · exact ⟨_, exec_of_check_failed (i := .ldB x) (if_pos h), faultTaken_raise _ _ s⟩
  · exact ⟨_, exec_of_check_failed (i := .stRegs x) (if_pos h), faultTaken_raise _ _ s⟩
  · exact ⟨_, exec_of_check_failed (i := .ldRegs x) (if_pos h), faultTaken_raise _ _ s⟩
  · exact ⟨_, exec_of_check_failed (i := .drw x y n) (if_pos ⟨hn, h⟩), faultTaken_raise _ _ s⟩

/-- The fetch behind a store reads each of its two bytes as the store left it (R53). -/
theorem fetchWord_advance_storeAtIndex {bs : List Byte} {s : State} {count : Nat} {b : Nat → Byte}
    (h : ∀ a, (storeAtIndex bs s).mem.read a = readAfterStore s.mem s.i.toNat count b a) :
    fetchWord (advance (storeAtIndex bs s)) =
      wordAfterStore s.mem s.i.toNat count b (advance (storeAtIndex bs s)).pc.toNat := by
  rw [fetchWord, wordAfterStore, advance_mem, h, h]

/-- Settles O29: both meanings are one store and an advance. -/
theorem nextFetchSeesStore : Obligations.NextFetchSeesStore := by
  intro x s hm
  exact ⟨fun hin => ⟨_, exec_ldB_within x hin, rfl, fetchWord_advance_storeAtIndex (read_ldB hm hin)⟩,
    fun hin => ⟨_, exec_stRegs_within hin, rfl, fetchWord_advance_storeAtIndex (read_stRegs hm hin)⟩⟩

end Sys2Proof.Proofs
end

section
/-! PROOFS. The display: the clear, the cells of a sprite, the draw and its collision flag (R130 to R134). -/

namespace Sys2Proof.Proofs

open Sys2Proof.Machine Sys2Proof.Claims

/-! ### The clear -/

theorem exec_cls (s : State) :
    exec .cls s = .next (advance { s with fb := clearedFramebuffer, drawFlag := true }) := rfl

/-- Settles O30. -/
theorem clearScreen : Obligations.ClearScreen := by
  intro s
  exact ⟨_, exec_cls s, cellAt_cleared, rfl, rfl, sameBut_advance (sameBut_cleared s)⟩

/-! ### The cells of a sprite -/

/-- Settles O34: 2048 is 64 columns times 32 rows. -/
theorem cellIndexOnScreen : Obligations.CellIndexOnScreen := by
  intro px py r c
  simp only [cellIndex]
  constructor <;> omega

/-- Within 32 rows and 8 columns two sprite positions never meet on the screen: they lie less than 2048 cells apart. -/
theorem cellIndex_inj {px py : Byte} {r r' c c' : Nat} (hr : r < 32) (hr' : r' < 32) (hc : c < 8) (hc' : c' < 8)
    (h : cellIndex px py r c = cellIndex px py r' c') : r = r' ∧ c = c' := by
  have hval := congrArg Fin.val h
  simp only [cellIndex] at hval
  omega

theorem nodup_rowCells (px py : Byte) {r : Nat} (b : Byte) (hr : r < 32) : (rowCells px py r b).Nodup := by
  refine List.pairwise_filterMap.mpr (List.nodup_range.imp_of_mem fun {c c'} hc hc' hne k hk k' hk' hkk => hne ?_)
  obtain ⟨-, rfl⟩ : b.getLsbD (7 - c) = true ∧ cellIndex px py r c = k := by simpa using hk
  obtain ⟨-, rfl⟩ : b.getLsbD (7 - c') = true ∧ cellIndex px py r c' = k' := by simpa using hk'
  exact (cellIndex_inj hr hr (List.mem_range.mp hc) (List.mem_range.mp hc') hkk).2

/-- The rows of a sprite within the screen's height cover distinct cells: each row by itself, and no row meets a later one. -/
theorem nodup_spriteCells (px py : Byte) {r : Nat} {rows : List Byte} (h : r + rows.length ≤ 32) :
    (spriteCells px py r rows).Nodup := by
  induction rows generalizing r with
  | nil => exact List.nodup_nil
  | cons b bs ih =>
    rw [List.length_cons] at h
    refine List.nodup_append.mpr ⟨nodup_rowCells px py b (by omega), ih (by omega), ?_⟩
    rintro k hk k' hk' rfl
    obtain ⟨c, hc, -, rfl⟩ := mem_rowCells.mp hk
    obtain ⟨j, hj, c', hc', -, heq⟩ := mem_spriteCells.mp hk'
    have hrow := (cellIndex_inj (by omega) (by omega) hc' hc heq).1
    omega

/-- Settles O33. -/
theorem spriteCellsAreDistinct : Obligations.SpriteCellsAreDistinct := by
  intro px py rows h
  exact nodup_spriteCells px py (by omega)

/-! ### The draw -/

/-- The cells the model draws are those R131's formula covers. -/
theorem mem_spriteCells_iff_spriteCovers {x y : Reg} {n : Nat} {s : State} {k : Fin 2048} :
    k ∈ spriteCells s.v[x] s.v[y] 0 (s.mem.load s.i.toNat n) ↔ SpriteCovers x y n s k := by
  simp only [mem_spriteCells, SpriteCovers, Memory.getElem_load, Memory.length_load, Nat.zero_add, exists_prop,
    Fin.ext_iff, cellIndex, eq_comm (a := k.val)]

theorem exec_drw_within (x y : Reg) {n : Nat} {s : State} (h : n = 0 ∨ s.i.toNat + n ≤ 4096) :
    exec (.drw x y n) s = .next (advance (drawSprite s.v[x] s.v[y] (s.mem.load s.i.toNat n) s)) :=
  exec_of_check_passed (if_neg (by omega))

/-- Settles O31: the cells are distinct, so each is flipped once and tested before any flip of its own. -/
theorem spriteXorsCoveredCells : Obligations.SpriteXorsCoveredCells := by
  intro x y n s hn hin
  have hnodup := nodup_spriteCells s.v[x] s.v[y] (r := 0) (rows := s.mem.load s.i.toNat n)
    (by rw [Memory.length_load]; omega)
  obtain ⟨hcell, hhit⟩ := plotAll_spec s.fb _ hnodup
  simp only [mem_spriteCells_iff_spriteCovers] at hcell hhit
  refine ⟨_, exec_drw_within x y hin, fun k => ?_, ?_, rfl, fun r hr => writeFlag_get_other hr _ _, rfl,
    sameBut_advance (sameBut_drawSprite _ _ _ s)⟩
  · rw [advance_fb, drawSprite_fb, hcell]
    by_cases hk : SpriteCovers x y n s k
    · rw [decide_eq_true (mem_spriteCells_iff_spriteCovers.mpr hk)]
      simp [hk]
    · rw [decide_eq_false (mt mem_spriteCells_iff_spriteCovers.mp hk)]
      simp [hk]
  · have hflag := flagByte_cases hhit
    rwa [← writeFlag_get_flag { s with fb := _, drawFlag := true }] at hflag

/-- Whether a cell is covered depends on the two coordinates, on I and on the sprite's bytes alone. -/
theorem spriteCovers_congr {x y : Reg} {n : Nat} {s u : State} {k : Fin 2048} (hi : u.i = s.i)
    (hx : u.v[x] = s.v[x]) (hy : u.v[y] = s.v[y])
    (hrows : ∀ r < n, u.mem.read (s.i.toNat + r) = s.mem.read (s.i.toNat + r)) :
    SpriteCovers x y n u k ↔ SpriteCovers x y n s k := by
  unfold SpriteCovers
  rw [hi, hx, hy]
  exact exists_congr fun r => and_congr_right fun hr => by rw [hrows r hr]

/-- A cell toggled on one condition twice is as it was. -/
theorem eq_of_toggled_twice {a b c : Bool} {P : Prop} (h₁ : b = true ↔ (a = true ∧ ¬ P) ∨ (a = false ∧ P))
    (h₂ : c = true ↔ (b = true ∧ ¬ P) ∨ (b = false ∧ P)) : c = a := by
  by_cases hP : P
  · have hb : b = !a := Bool.eq_iff_iff.mpr (by simpa [hP] using h₁)
    have hc : c = !b := Bool.eq_iff_iff.mpr (by simpa [hP] using h₂)
    rw [hc, hb, Bool.not_not]
  · have hb : b = a := Bool.eq_iff_iff.mpr (by simpa [hP] using h₁)
    have hc : c = b := Bool.eq_iff_iff.mpr (by simpa [hP] using h₂)
    rw [hc, hb]

/-- Settles O32: the second draw (O31) toggles the same cells again. -/
theorem drawTwiceRestores : Obligations.DrawTwiceRestores := by
  intro x y n s s₁ u hn hin hdraw hfb hi hx hy hrows
  obtain ⟨t₁, hdraw', hcell₁, -⟩ := spriteXorsCoveredCells x y n s hn hin
  obtain rfl := Host.Outcome.next.inj (hdraw'.symm.trans hdraw)
  obtain ⟨t, ht, hcell, hflag, -⟩ := spriteXorsCoveredCells x y n u hn (hi ▸ hin)
  simp only [spriteCovers_congr hi hx hy hrows, hfb] at hcell hflag
  refine ⟨t, ht, framebuffer_ext fun k => eq_of_toggled_twice (hcell₁ k) (hcell k), fun hset => ?_⟩
  exact (hflag.resolve_right fun hno => hno.1 hset).2

end Sys2Proof.Proofs
end

section
/-! PROOFS. The keypad: the skips on a key level and the poll for a key (R140 to R143). -/

namespace Sys2Proof.Proofs

open Sys2Proof.Machine Sys2Proof.Claims

/-! ### The skips -/

/-- A register that names a key reads that key's level. -/
theorem getElem?_keys_iff {b : Bool} {x : Reg} {s : State} {k : Fin 16} (h : s.v[x].toNat = k.val) :
    (s.keys[s.v[x].toNat]? == some b) = true ↔ s.keys[k] = b := by
  rw [h, Vector.getElem?_eq_getElem k.isLt]
  simp

/-- Settles O35: the check decides between the fault and a skip on the key's level. -/
theorem keySkips : Obligations.KeySkips := by
  intro x s
  refine ⟨fun k hk => ?_, fun hx => ?_⟩
  · have hpass : ¬ 15 < s.v[x].toNat := by omega
    exact ⟨⟨_, exec_of_check_passed (i := .skp x) (if_neg hpass), skips_skipIf (getElem?_keys_iff hk) s⟩,
      ⟨_, exec_of_check_passed (i := .sknp x) (if_neg hpass), skips_skipIf (getElem?_keys_iff hk) s⟩⟩
  · exact ⟨⟨_, exec_of_check_failed (i := .skp x) (if_pos hx), faultTaken_raise _ _ s⟩,
      ⟨_, exec_of_check_failed (i := .sknp x) (if_pos hx), faultTaken_raise _ _ s⟩⟩

/-! ### The poll -/

/-- The key found is the least one pressed. -/
theorem firstPressed_least {keys : Vector Bool 16} {k : Fin 16} (hk : keys[k] = true)
    (hleast : ∀ j : Fin 16, j < k → keys[j] = false) : firstPressed keys = some k := by
  refine List.find?_eq_some_iff_getElem.mpr ⟨hk, k.val, by simp, by simp, fun j hj => ?_⟩
  simpa using hleast ⟨j, by omega⟩ hj

/-- Settles O36. -/
theorem waitForKeyPolls : Obligations.WaitForKeyPolls := by
  intro x s
  refine ⟨fun k hk hleast => ?_, fun hnone => exec_ldVxK_none (firstPressed_none.mpr hnone)⟩
  exact ⟨_, exec_ldVxK_some (firstPressed_least hk hleast), writesOnly_advance_writeV s x _⟩

end Sys2Proof.Proofs
end
